-- ==== Sys2Proof/Config.lean ====
section
/-! DEFINITION. What is fixed when a DHD is built (spec/00_scope.md rule R8): the parameters of the
block. The spec leaves no instruction result open, so there is no free value here. -/

namespace Sys2Proof.Config

/-- `LEN_W` (R8): the width in bits of the buffer length and of every length or offset output. -/
abbrev lenW : Nat := 16

/-- `WIN` (R8): how many buffer bytes the request port presents (offsets 0 to 23). -/
abbrev win : Nat := 24

/-- `L_MAX` (R8): the largest buffer length the request port can express. -/
abbrev lMax : Nat := 2 ^ lenW - 1

/-- `MIN_HDR` (R8): the bytes the fixed-header stage requires. -/
abbrev minHdr : Nat := 12

/-- `FIX_END` (R8, R86): the cursor after the fixed-header stage. -/
abbrev fixEnd : Nat := 9

/-- What a buffer offset that the memory does not list reads as. DESIGN CHOICE (log entry 4): 0, the
value `SEND` drives on unused lanes (R72). -/
def unlistedByte : BitVec 8 := 0#8

end Sys2Proof.Config
end

