-- ==== Sys2Proof/Word.lean ====
section
/-! DEFINITION. The unsigned widths of the spec (spec/00_scope.md rule R10) that have a name in the
model. -/

namespace Sys2Proof

/-- One byte of the packet buffer (u8). -/
abbrev Byte := BitVec 8

/-- A value of `LEN_W` = 16 bits (R8): a buffer length, a cursor, or a length or offset output. -/
abbrev Len := BitVec 16

/-- A 48-bit sequence or Ack number (u48). -/
abbrev U48 := BitVec 48

end Sys2Proof
end

