-- ==== Sys2Proof/Syntax.lean ====
section
/-! DEFINITION. The operations of the DHD: one constructor of `Instr` per row of
spec/opcode_table.json. What the spec calls an instruction is one decode operation (R3): a stage, an
arm of the type dispatch, or one of the four port steps. -/

namespace Sys2Proof

/-- The three sub-fields of header byte 8 (R62), the byte that selects the operations. -/
structure Selector where
  /-- bits 7:5, letters `rrr`: returned, never checked, and no part of any selection (R68, R70) -/
  reserved : BitVec 3
  /-- bits 4:1, letters `tttt`: the packet type code -/
  type : BitVec 4
  /-- bit 0, letter `x`: the extended-sequence flag -/
  x : BitVec 1
deriving DecidableEq, Repr

/-- The three stages of a decode, in the order they run (R2). -/
inductive Stage where
  | hdr   -- stage 1, the Fixed Header Decoder
  | seq   -- stage 2, the Sequence Number Decoder
  | ext   -- stage 3, the Extension Header Dispatcher
deriving DecidableEq, Repr

/-- The one-bit handshake register `st` (R25). -/
inductive Handshake where
  | idle  -- 0: no response is pending
  | full  -- 1: `R` holds a response the host has not taken
deriving DecidableEq, Repr

/-- The one-bit signals that choose the port step of a clock edge (R144 to R146, R181). -/
structure EdgeSignals where
  rst      : Bool
  st       : Handshake
  reqValid : Bool
  rspReady : Bool
deriving DecidableEq, Repr

/-- One constructor per row of spec/opcode_table.json. A header operation carries the sub-fields of
the byte 8 that selected it; a port step is selected by signals and carries nothing. -/
inductive Instr where
  | hdrFixed       (sel : Selector)   -- HDR_FIXED, R80
  | seq48          (sel : Selector)   -- SEQ48, R100
  | seq24          (sel : Selector)   -- SEQ24, R101
  | extRequest     (sel : Selector)   -- EXT_REQUEST, R121
  | extResponse    (sel : Selector)   -- EXT_RESPONSE, R121
  | extAck48       (sel : Selector)   -- EXT_ACK48, R122
  | extAck24       (sel : Selector)   -- EXT_ACK24, R123
  | extUnparsedT2  (sel : Selector)   -- EXT_UNPARSED_T2, R124
  | extUnparsedT4  (sel : Selector)
  | extUnparsedT5  (sel : Selector)
  | extUnparsedT6  (sel : Selector)
  | extUnparsedT7  (sel : Selector)
  | extUnparsedT8  (sel : Selector)
  | extUnparsedT9  (sel : Selector)
  | extUnparsedT10 (sel : Selector)
  | extUnparsedT11 (sel : Selector)
  | extUnparsedT12 (sel : Selector)
  | extUnparsedT13 (sel : Selector)
  | extUnparsedT14 (sel : Selector)
  | extUnparsedT15 (sel : Selector)   -- EXT_UNPARSED_T15, R124
  | accept                            -- ACCEPT, R144
  | complete                          -- COMPLETE, R145
  | hold                              -- HOLD, R146
  | reset                             -- RESET, R181
deriving DecidableEq, Repr

end Sys2Proof
end

