-- ==== Sys2Proof/WellFormed.lean ====
section
/-! DEFINITION. Which terms of `Instr` the DHD can select: the sub-fields a header operation carries
must fit the pattern of its row of the dispatch map (spec/30_encoding.md rule R68). -/

namespace Sys2Proof

/-- The sub-fields fit the row's pattern over byte 8 (R68). `HDR_FIXED` has mask 0 and takes any; the
`reserved` bits never take part; a port step has no pattern over byte 8. -/
def Instr.wellFormed : Instr → Bool
  | .hdrFixed _         => true
  | .seq48 sel          => sel.x == 1#1
  | .seq24 sel          => sel.x == 0#1
  | .extRequest sel     => sel.type == 0#4
  | .extResponse sel    => sel.type == 1#4
  | .extAck48 sel       => sel.type == 3#4 && sel.x == 1#1
  | .extAck24 sel       => sel.type == 3#4 && sel.x == 0#1
  | .extUnparsedT2 sel  => sel.type == 2#4
  | .extUnparsedT4 sel  => sel.type == 4#4
  | .extUnparsedT5 sel  => sel.type == 5#4
  | .extUnparsedT6 sel  => sel.type == 6#4
  | .extUnparsedT7 sel  => sel.type == 7#4
  | .extUnparsedT8 sel  => sel.type == 8#4
  | .extUnparsedT9 sel  => sel.type == 9#4
  | .extUnparsedT10 sel => sel.type == 10#4
  | .extUnparsedT11 sel => sel.type == 11#4
  | .extUnparsedT12 sel => sel.type == 12#4
  | .extUnparsedT13 sel => sel.type == 13#4
  | .extUnparsedT14 sel => sel.type == 14#4
  | .extUnparsedT15 sel => sel.type == 15#4
  | .accept             => true
  | .complete           => true
  | .hold               => true
  | .reset              => true

end Sys2Proof
end

