-- ==== Sys2Proof/Decode.lean ====
section
/-! DEFINITION. How the DHD selects an operation: a header operation from byte 8 (spec/30_encoding.md
rules R62, R68, R69), a port step from the handshake signals (spec/43_transaction.md section 2). After
the decoder stand the encoder and the opcode table's match and mask of every row. -/

namespace Sys2Proof

/-! ## The sub-fields of byte 8 (R62, R64) -/

/-- `reserved` is `B[8] >> 5`, bits 7:5 (R64). -/
def reservedBits (b : Byte) : BitVec 3 := (b >>> 5).setWidth 3

/-- `type` is `(B[8] >> 1) & 0x0F`, bits 4:1 (R64). -/
def typeBits (b : Byte) : BitVec 4 := ((b >>> 1) &&& 0x0F#8).setWidth 4

/-- `x` is `B[8] & 0x01`, bit 0 (R64). -/
def xBit (b : Byte) : BitVec 1 := (b &&& 0x01#8).setWidth 1

/-- Byte 8 taken apart. -/
def Selector.ofByte (b : Byte) : Selector :=
  { reserved := reservedBits b, type := typeBits b, x := xBit b }

/-- The pattern `rrrttttx`, bit 7 first (R62). -/
def Selector.toByte (sel : Selector) : Byte := sel.reserved ++ sel.type ++ sel.x

/-! ## Selecting a header operation (R68) -/

/-- Stage 1: `HDR_FIXED` runs whatever byte 8 holds (mask 0). -/
def decodeHdr (b : Byte) : Instr := .hdrFixed (Selector.ofByte b)

/-- Stage 2: bit 0 chooses between the two sequence operations. -/
def decodeSeq (b : Byte) : Instr :=
  let sel := Selector.ofByte b
  if sel.x = 1#1 then .seq48 sel else .seq24 sel

/-- Stage 3: the exhaustive match on (`type`, `x`) (R69, R120). All sixteen type codes have an arm. -/
def decodeExt (b : Byte) : Instr :=
  let sel := Selector.ofByte b
  match sel.type.toFin with
  | 0  => .extRequest sel
  | 1  => .extResponse sel
  | 2  => .extUnparsedT2 sel
  | 3  => if sel.x = 1#1 then .extAck48 sel else .extAck24 sel
  | 4  => .extUnparsedT4 sel
  | 5  => .extUnparsedT5 sel
  | 6  => .extUnparsedT6 sel
  | 7  => .extUnparsedT7 sel
  | 8  => .extUnparsedT8 sel
  | 9  => .extUnparsedT9 sel
  | 10 => .extUnparsedT10 sel
  | 11 => .extUnparsedT11 sel
  | 12 => .extUnparsedT12 sel
  | 13 => .extUnparsedT13 sel
  | 14 => .extUnparsedT14 sel
  | 15 => .extUnparsedT15 sel
  | ⟨_ + 16, h⟩ => absurd h (by omega)

/-- The operation that byte 8 selects at a stage. -/
def decodeAt (stage : Stage) (b : Byte) : Instr :=
  match stage with
  | .hdr => decodeHdr b
  | .seq => decodeSeq b
  | .ext => decodeExt b

/-! ## Selecting a port step -/

/-- Exactly one port step applies at each edge: reset first, then accept, then complete, else hold
(spec/43_transaction.md section 2, R144 to R146, R181). -/
def decodeEdge (sig : EdgeSignals) : Instr :=
  if sig.rst = true then .reset
  else if sig.st = .idle ∧ sig.reqValid = true then .accept
  else if sig.st = .full ∧ sig.rspReady = true then .complete
  else .hold

/-! ## The decoder -/

/-- What the hardware looks at to choose its next operation: byte 8 at a stage of a decode, or the
signals at a clock edge. -/
inductive Code where
  | header (stage : Stage) (byte : Byte)
  | edge (sig : EdgeSignals)
deriving DecidableEq, Repr

/-- The operation selected. Total: no byte value and no signal value is illegal (R69, R70). -/
def decode : Code → Instr
  | .header stage b => decodeAt stage b
  | .edge sig       => decodeEdge sig

/-- Why bytes are no encoding of a header operation. -/
inductive DecodeError where
  | noSelectorByte   -- there is no byte to select by
  | notOneByte       -- the table gives a header operation exactly the eight bits of byte 8
deriving DecidableEq, Repr

/-- The operation at a stage from bytes that begin with the selecting byte, and the bytes left. -/
def decodeBytes (stage : Stage) : List Byte → Except DecodeError (Instr × List Byte)
  | []        => .error .noSelectorByte
  | b :: rest => .ok (decodeAt stage b, rest)

/-! ## The encoder -/

/-- What selects a given operation: its byte 8 at its stage, or the signals of its row of the opcode
table, with every signal that the row leaves open at 0 (`IDLE` for `st`). -/
def encode : Instr → Code
  | .hdrFixed sel       => .header .hdr sel.toByte
  | .seq48 sel          => .header .seq sel.toByte
  | .seq24 sel          => .header .seq sel.toByte
  | .extRequest sel     => .header .ext sel.toByte
  | .extResponse sel    => .header .ext sel.toByte
  | .extAck48 sel       => .header .ext sel.toByte
  | .extAck24 sel       => .header .ext sel.toByte
  | .extUnparsedT2 sel  => .header .ext sel.toByte
  | .extUnparsedT4 sel  => .header .ext sel.toByte
  | .extUnparsedT5 sel  => .header .ext sel.toByte
  | .extUnparsedT6 sel  => .header .ext sel.toByte
  | .extUnparsedT7 sel  => .header .ext sel.toByte
  | .extUnparsedT8 sel  => .header .ext sel.toByte
  | .extUnparsedT9 sel  => .header .ext sel.toByte
  | .extUnparsedT10 sel => .header .ext sel.toByte
  | .extUnparsedT11 sel => .header .ext sel.toByte
  | .extUnparsedT12 sel => .header .ext sel.toByte
  | .extUnparsedT13 sel => .header .ext sel.toByte
  | .extUnparsedT14 sel => .header .ext sel.toByte
  | .extUnparsedT15 sel => .header .ext sel.toByte
  | .accept             => .edge { rst := false, st := .idle, reqValid := true, rspReady := false }
  | .complete           => .edge { rst := false, st := .full, reqValid := false, rspReady := true }
  | .hold               => .edge { rst := false, st := .idle, reqValid := false, rspReady := false }
  | .reset              => .edge { rst := true, st := .idle, reqValid := false, rspReady := false }

/-- The words of an operation: the one byte of a header operation. A port step has none: the opcode
table gives it no bits. -/
def encodeBytes (i : Instr) : List Byte :=
  match encode i with
  | .header _ b => [b]
  | .edge _     => []

/-! ## The opcode table's match and mask (R68) -/

/-- The row's match and mask over byte 8, for the rows that have them. -/
def Instr.row : Instr → Option (Byte × Byte)
  | .hdrFixed _       => some (0x00#8, 0x00#8)
  | .seq48 _          => some (0x01#8, 0x01#8)
  | .seq24 _          => some (0x00#8, 0x01#8)
  | .extRequest _     => some (0x00#8, 0x1E#8)
  | .extResponse _    => some (0x02#8, 0x1E#8)
  | .extAck48 _       => some (0x07#8, 0x1F#8)
  | .extAck24 _       => some (0x06#8, 0x1F#8)
  | .extUnparsedT2 _  => some (0x04#8, 0x1E#8)
  | .extUnparsedT4 _  => some (0x08#8, 0x1E#8)
  | .extUnparsedT5 _  => some (0x0A#8, 0x1E#8)
  | .extUnparsedT6 _  => some (0x0C#8, 0x1E#8)
  | .extUnparsedT7 _  => some (0x0E#8, 0x1E#8)
  | .extUnparsedT8 _  => some (0x10#8, 0x1E#8)
  | .extUnparsedT9 _  => some (0x12#8, 0x1E#8)
  | .extUnparsedT10 _ => some (0x14#8, 0x1E#8)
  | .extUnparsedT11 _ => some (0x16#8, 0x1E#8)
  | .extUnparsedT12 _ => some (0x18#8, 0x1E#8)
  | .extUnparsedT13 _ => some (0x1A#8, 0x1E#8)
  | .extUnparsedT14 _ => some (0x1C#8, 0x1E#8)
  | .extUnparsedT15 _ => some (0x1E#8, 0x1E#8)
  | .accept           => none
  | .complete         => none
  | .hold             => none
  | .reset            => none

/-- The stage a header operation belongs to. -/
def Instr.stage : Instr → Option Stage
  | .hdrFixed _ => some .hdr
  | .seq48 _    => some .seq
  | .seq24 _    => some .seq
  | .accept     => none
  | .complete   => none
  | .hold       => none
  | .reset      => none
  | .extRequest _ | .extResponse _ | .extAck48 _ | .extAck24 _ | .extUnparsedT2 _
  | .extUnparsedT4 _ | .extUnparsedT5 _ | .extUnparsedT6 _ | .extUnparsedT7 _
  | .extUnparsedT8 _ | .extUnparsedT9 _ | .extUnparsedT10 _ | .extUnparsedT11 _
  | .extUnparsedT12 _ | .extUnparsedT13 _ | .extUnparsedT14 _ | .extUnparsedT15 _ => some .ext

/-- Byte 8 has the row's pattern: `byte & mask = match`. -/
def Instr.rowMatches (i : Instr) (b : Byte) : Bool :=
  match i.row with
  | some (m, k) => (b &&& k) == m
  | none        => false

/-! ## The host's question about the opcode table -/

/-- The operation read from `nbits` bits numbered as the opcode table numbers them. The table's bits
are those of byte 8, which selects three operations, one a stage; answered here is the EXTENSION
operation, the one that the type code names (log entry 6). Bits other than the eight of byte 8 are
refused by name. -/
def decodeTable (nbits w : Nat) : Except DecodeError Instr :=
  if nbits = 8 ∧ w < 256 then
    match decodeBytes .ext [BitVec.ofNat 8 w] with
    | .ok (i, _) => .ok i
    | .error r   => .error r
  else .error .notOneByte

/-- `decodeTable` without the reason. -/
def decodeTableWord (nbits w : Nat) : Option Instr :=
  match decodeTable nbits w with
  | .ok i    => some i
  | .error _ => none

end Sys2Proof
end

