-- ==== Sys2Proof/Machine/State.lean ====
section
/-! DEFINITION. The state of one DHD (spec/10_state.md): the handshake register `st`, the result bank
`R`, what the host drives on the input ports, and the model's own record of the evaluation of
`Decode` in progress. All of it is plain data. -/

namespace Sys2Proof.Machine

/-! ## The packet buffer -/

/-- The host's packet buffer (R40), a byte at each offset: the offsets whose byte is not
`Config.unlistedByte`, in rising order (the canonical form, `Memory.wf`). -/
structure Memory where
  cells : List Host.Cell
deriving DecidableEq, Repr

/-- One request: `req_len` and the buffer whose first 24 bytes stand on `req_bytes` (R23, R24). -/
structure Request where
  /-- `L`, the buffer length in bytes -/
  len : Len
  /-- the bytes `B[i]`; those at and above `L` are whatever the host drives (R24) -/
  buf : Memory
deriving DecidableEq, Repr

/-- The input ports during one clock cycle (R23). -/
structure Cycle where
  rst      : Bool
  reqValid : Bool
  req      : Request
  rspReady : Bool
deriving DecidableEq, Repr

/-- A cycle in which the host drives nothing: every input is 0. -/
def Cycle.quiet : Cycle :=
  { rst := false, reqValid := false, req := { len := 0#16, buf := { cells := [] } }, rspReady := false }

/-! ## The result bank -/

/-- The values of `status` (R27). -/
inductive Status where
  | ok         -- 0
  | truncHdr   -- 1, TruncatedHeader
  | truncSeq   -- 2, TruncatedSequence
  | truncExt   -- 3, TruncatedExtension
deriving DecidableEq, Repr

/-- The values of `ext_kind` (R28). -/
inductive ExtKind where
  | none       -- 0, no record
  | reqresp    -- 1, RequestResponse
  | ack        -- 2, Ack
  | unparsed   -- 3, Unparsed
deriving DecidableEq, Repr

/-- The result register bank `R` (R26), field by field with the spec's widths. -/
structure Result where
  status         : Status
  errCursor      : BitVec 8
  errNeed        : BitVec 8
  errHave        : BitVec 8
  sourcePort     : BitVec 16
  destPort       : BitVec 16
  dataOffset     : BitVec 8
  ccval          : BitVec 4
  cscov          : BitVec 4
  checksum       : BitVec 16
  reserved       : BitVec 3
  type           : BitVec 4
  x              : BitVec 1
  seq48          : U48
  seqRaw24       : BitVec 24
  extKind        : ExtKind
  code           : BitVec 8
  ack48          : U48
  ackUnsupported : BitVec 1
  rawOff         : Len
  rawLen         : Len
  hdrLen         : Len
deriving DecidableEq, Repr

/-- All fields 0 (R26's reset values; also `R <- all fields 0` of R140). -/
def Result.zero : Result :=
  { status := .ok, errCursor := 0#8, errNeed := 0#8, errHave := 0#8, sourcePort := 0#16,
    destPort := 0#16, dataOffset := 0#8, ccval := 0#4, cscov := 0#4, checksum := 0#16,
    reserved := 0#3, type := 0#4, x := 0#1, seq48 := 0#48, seqRaw24 := 0#24, extKind := .none,
    code := 0#8, ack48 := 0#48, ackUnsupported := 0#1, rawOff := 0#16, rawLen := 0#16,
    hdrLen := 0#16 }

/-! ## The evaluation of `Decode` in progress (the model's own, log entry 2) -/

/-- How far the evaluation of `Decode` for the request on the ports has come. The cursor is no
register of the DHD (R21): it exists within one evaluation only. -/
structure Eval where
  /-- the stage to run next; none when the evaluation has ended -/
  next : Option Stage
  /-- the cursor `c` (R12) -/
  cur : Len
  /-- the record under construction -/
  record : Result
deriving DecidableEq, Repr

/-- Before stage 1: the cursor at 0 and every field of the record 0 (R140). -/
def Eval.start : Eval := { next := some .hdr, cur := 0#16, record := Result.zero }

/-! ## The state -/

/-- The whole state of one DHD is (`st`, `R`) (R33). `inputs` is what the host drives, cycle by
cycle, the current cycle first (log entry 3); `ev` is the model's own (log entry 2). -/
structure State where
  /-- the handshake register (R25) -/
  st : Handshake
  /-- the result register bank (R26) -/
  R : Result
  /-- the input ports, this cycle first; past the end of the list the host drives nothing -/
  inputs : List Cycle
  /-- the evaluation of `Decode` in this cycle -/
  ev : Eval
deriving DecidableEq, Repr

/-- The state after a reset edge (R181, R183): (`IDLE`, all fields zero), no evaluation begun, and a
host that drives nothing. -/
def State.reset : State :=
  { st := .idle, R := Result.zero, inputs := [], ev := Eval.start }

/-! ## How a step can stop -/

/-- Why the machine stops. Both are safe: the spec says no such read happens (R45, R46), and no state
that a run reaches makes one. -/
inductive Fault where
  /-- Raised by `MemRead` at an offset that is not below `L`: the buffer has no such byte (R40, R45).
  Safe. -/
  | readPastEnd (offset : Nat)
  /-- Raised by `MemRead` at an offset the request port does not present (24 and above, R24). Safe. -/
  | outsideWindow (offset : Nat)
deriving DecidableEq, Repr

/-- Why an instruction has no meaning. -/
inductive Refusal where
  /-- Raised by an arm of `exec` whose instruction the model gives no meaning. Safe. No arm raises
  it: every operation has its meaning. -/
  | notModelled (mnemonic : String)
deriving DecidableEq, Repr

end Sys2Proof.Machine
end

