-- ==== Sys2Proof/Machine/Ops.lean ====
section
/-! DEFINITION. The operations every meaning shares: reading the packet buffer, ending a decode with
an error (the DHD's one kind of exception) or with success, running a stage, and ending a clock
cycle. -/

namespace Sys2Proof.Machine

/-! ## The packet buffer (spec/20_memory.md)

The DHD only reads it (R41); `write` and `ofBytes` are the host's. -/

/-- The byte that a canonical list of cells gives an offset. -/
def readCells : List Host.Cell → Nat → Byte
  | [], _ => Config.unlistedByte
  | (k, v) :: rest, a => if k = a then v else readCells rest a

/-- The byte at an offset. -/
def Memory.read (m : Memory) (a : Nat) : Byte := readCells m.cells a

/-- A cell in front of a list, unless it holds what an unlisted offset reads as. -/
def consCell (a : Nat) (b : Byte) (rest : List Host.Cell) : List Host.Cell :=
  if b = Config.unlistedByte then rest else (a, b) :: rest

/-- The cells after the byte at one offset is set. -/
def writeCells : List Host.Cell → Nat → Byte → List Host.Cell
  | [], a, b => consCell a b []
  | (k, v) :: rest, a, b =>
    if a < k then consCell a b ((k, v) :: rest)
    else if a = k then consCell a b rest
    else (k, v) :: writeCells rest a b

/-- The buffer with the byte at one offset set. -/
def Memory.write (m : Memory) (a : Nat) (b : Byte) : Memory := { cells := writeCells m.cells a b }

/-- The cells of bytes that stand from an offset on. -/
def cellsFrom (a : Nat) : List Byte → List Host.Cell
  | [] => []
  | b :: rest => consCell a b (cellsFrom (a + 1) rest)

/-- The buffer that holds the given bytes from offset 0 (R72). -/
def Memory.ofBytes (bytes : List Byte) : Memory := { cells := cellsFrom 0 bytes }

/-- Offsets from `lo` on, strictly rising, none holding what an unlisted offset reads as. -/
def canonicalFrom (lo : Nat) : List Host.Cell → Bool
  | [] => true
  | (k, v) :: rest => decide (lo ≤ k) && decide (v ≠ Config.unlistedByte) && canonicalFrom (k + 1) rest

/-- The one canonical form of a buffer. -/
def Memory.wf (m : Memory) : Bool := canonicalFrom 0 m.cells

/-! ## The request port -/

/-- `B[i]`, the byte at an offset of the request's buffer (R11). -/
def Request.byteAt (q : Request) (i : Nat) : Byte := q.buf.read i

/-- The first `n` byte lanes of a request, lane 0 least significant. -/
def lanesOf (q : Request) : (n : Nat) → BitVec (8 * n)
  | 0 => 0#0
  | n + 1 => (q.byteAt n ++ lanesOf q n).cast (by omega)

/-- `req_bytes`: buffer byte `B[i]` on bits 8i+7 to 8i, for i = 0 to 23 (R24). -/
def Request.reqBytes (q : Request) : BitVec 192 := lanesOf q 24

/-- `B[off] ‖ B[off+1] ‖ ... ‖ B[off+n-1]` (R11, R42). -/
def Request.bigEndian (q : Request) (off : Nat) : (n : Nat) → BitVec (8 * n)
  | 0 => 0#0
  | n + 1 => q.bigEndian off n ++ q.byteAt (off + n)

/-- `MemRead(off, n)` (R11), with the check that the spec says every use of it has passed: all n
bytes lie below `L` (R45) and in the window that the port presents (R24, R46). -/
def memRead (q : Request) (off n : Nat) : Except Fault (BitVec (8 * n)) :=
  if q.len.toNat < off + n then .error (.readPastEnd (off + n - 1))
  else if Config.win < off + n then .error (.outsideWindow (off + n - 1))
  else .ok (q.bigEndian off n)

/-- The bytes a descriptor (offset, length) names in the host's buffer (R47). The DHD does not read
them; they may lie beyond the window. -/
def Request.bytesAt (q : Request) (off len : Nat) : List Byte :=
  (List.range len).map fun i => q.byteAt (off + i)

/-- `raw`: the bytes that the descriptor of an Unparsed record names (R47, R124). -/
def Request.rawBytes (q : Request) (r : Result) : List Byte :=
  q.bytesAt r.rawOff.toNat r.rawLen.toNat

/-- The bytes from `hdr_len` to `L`-1, which the DHD does not read (R125). -/
def Request.bytesAfterHeader (q : Request) (r : Result) : List Byte :=
  q.bytesAt r.hdrLen.toNat (q.len.toNat - r.hdrLen.toNat)

/-! ## Ending a decode -/

/-- `raise E(cursor, need, have)` (R12, R142, R167): the decode ends, no field of the record
survives, and `have` is what the buffer holds from the cursor, `L - cursor`. This is the DHD's whole
exception entry: no state is saved, no mode changes and no vector is taken (R166), and there is no
return from it (R168). -/
def raiseTruncated (status : Status) (cursor : Len) (need : Nat) (q : Request) : Eval :=
  { next := none
    cur := cursor
    record :=
      { Result.zero with
        status := status
        errCursor := cursor.setWidth 8
        errNeed := BitVec.ofNat 8 need
        errHave := BitVec.ofNat 8 (q.len.toNat - cursor.toNat) } }

/-- A stage's length check: unless the buffer holds `need` bytes from the cursor, raise. -/
def requireBytes (status : Status) (cursor : Len) (need : Nat) (q : Request)
    (k : Except Fault Eval) : Except Fault Eval :=
  if q.len.toNat < cursor.toNat + need then .ok (raiseTruncated status cursor need q) else k

/-- The end of a successful decode (R140, R143): `hdr_len` is the final cursor. -/
def endDecode (cursor : Len) (r : Result) : Eval :=
  { next := none, cur := cursor, record := { r with hdrLen := cursor, status := .ok } }

/-- The sequence fields of a record, both written together (R104). -/
def Result.withSequence (r : Result) (seq48 : U48) (seqRaw24 : BitVec 24) : Result :=
  { r with seq48 := seq48, seqRaw24 := seqRaw24 }

/-- The extension fields of a record, all written together: the fields of the arm that ran and 0 in
the others (R121 to R124, fields written). -/
def Result.withExtension (r : Result) (kind : ExtKind) (code : BitVec 8) (ack48 : U48)
    (ackUnsupported : BitVec 1) (rawOff rawLen : Len) : Result :=
  { r with
    extKind := kind, code := code, ack48 := ack48, ackUnsupported := ackUnsupported,
    rawOff := rawOff, rawLen := rawLen }

/-! ## The state -/

/-- The input ports in the current cycle. -/
def State.cycle (s : State) : Cycle := s.inputs.headD Cycle.quiet

/-- The request on the request port in the current cycle. -/
def State.request (s : State) : Request := s.cycle.req

/-- The state with another evaluation. -/
def State.withEval (s : State) (e : Eval) : State := { s with ev := e }

/-- The state after the clock edge that ends the current cycle, `st` and `R` not yet written: the next
cycle's inputs stand on the ports and no evaluation has begun. -/
def State.endCycle (s : State) : State := { s with inputs := s.inputs.tail, ev := Eval.start }

/-- Runs one stage on the request on the ports and the evaluation in progress. -/
def runStage (stage : Request → Eval → Except Fault Eval) (s : State) :
    Host.Outcome State Fault Refusal :=
  match stage s.request s.ev with
  | .ok e    => .next (s.withEval e)
  | .error r => .fault r

end Sys2Proof.Machine
end

