-- ==== Sys2Proof/Machine/Operands.lean ====
section
/-! DEFINITION. How every value is assembled from buffer bytes (spec/30_encoding.md rule R64): all
unsigned, never sign-extended, never scaled. -/

namespace Sys2Proof.Machine

/-- An 8-bit field at an offset (R64). -/
def readU8 (q : Request) (off : Nat) : Except Fault (BitVec 8) := memRead q off 1

/-- A 16-bit big-endian field at an offset (R64). -/
def readU16 (q : Request) (off : Nat) : Except Fault (BitVec 16) := memRead q off 2

/-- Three raw bytes at an offset, the first in bits 23:16 (R64, R101). -/
def readU24 (q : Request) (off : Nat) : Except Fault (BitVec 24) := memRead q off 3

/-- A 32-bit big-endian read, the high part of a 48-bit value (R48). -/
def readU32 (q : Request) (off : Nat) : Except Fault (BitVec 32) := memRead q off 4

/-- `(zext_48(high32) << 16) | zext_48(low16)` (R42, R64). -/
def joinU48 (high : BitVec 32) (low : BitVec 16) : U48 :=
  (high.setWidth 48 <<< 16) ||| low.setWidth 48

/-- A u48 at an offset: a 4-byte and a 2-byte big-endian read (R48, R64, R102). -/
def readU48 (q : Request) (off : Nat) : Except Fault U48 := do
  let high ← readU32 q off
  let low ← readU16 q (off + 4)
  return joinU48 high low

/-- `ccval` is `B[5] >> 4` (R61, R83). -/
def ccvalBits (b : Byte) : BitVec 4 := (b >>> 4).setWidth 4

/-- `cscov` is `B[5] & 0x0F` (R61, R83). -/
def cscovBits (b : Byte) : BitVec 4 := (b &&& 0x0F#8).setWidth 4

end Sys2Proof.Machine
end

