-- ==== Sys2Proof/Machine/Flags.lean ====
section
/-! DEFINITION. The two one-bit status values of a record (spec/10_state.md rule R29). The DHD has no
condition codes. -/

namespace Sys2Proof.Machine

/-- `x`, the extended-sequence flag, is bit 0 of byte 8 (R29, R85). -/
def extendedSeqFlag (byte8 : Byte) : BitVec 1 := xBit byte8

/-- `ack_unsupported` in the 24-bit Ack arm: the limitation marker (R29, R123). -/
def ackLimitation : BitVec 1 := 1#1

/-- `ack_unsupported` in every other outcome (R29). -/
def ackSupported : BitVec 1 := 0#1

end Sys2Proof.Machine
end

