-- ==== Sys2Proof/Machine/Extension.lean ====
section
/-! DEFINITION. Stage 3, the Extension Header Dispatcher (spec/42_extension.md): its arms. -/

namespace Sys2Proof.Machine

/-- The 1-byte code of a Request or a Response (R121): a spacer, not read, then `code`. -/
def codeStage (q : Request) (e : Eval) : Except Fault Eval :=
  requireBytes .truncExt e.cur 2 q do
    let code ← readU8 q (e.cur.toNat + 1)
    return endDecode (e.cur + 2#16)
      (e.record.withExtension .reqresp code 0#48 ackSupported 0#16 0#16)

/-- The 48-bit Ack number (R122): a 2-byte reserved part, not read, then the value; 8 bytes consumed
from the cursor (90_conflicts.md C3). -/
def ack48Stage (q : Request) (e : Eval) : Except Fault Eval :=
  requireBytes .truncExt e.cur 8 q do
    let value ← readU48 q (e.cur.toNat + 2)
    return endDecode (e.cur + 8#16)
      (e.record.withExtension .ack 0#8 value ackSupported 0#16 0#16)

/-- The unsupported 24-bit Ack form (R123): nothing read, nothing consumed, never an error, and the
limitation marker set. -/
def ack24Stage (_q : Request) (e : Eval) : Except Fault Eval :=
  .ok (endDecode e.cur (e.record.withExtension .ack 0#8 0#48 ackLimitation 0#16 0#16))

/-- The Unparsed fallback (R124): a descriptor of all bytes from the cursor on; never an error. -/
def unparsedStage (q : Request) (e : Eval) : Except Fault Eval :=
  .ok (endDecode q.len
    (e.record.withExtension .unparsed 0#8 0#48 ackSupported e.cur (q.len - e.cur)))

/-- `EXT_REQUEST`, R121. -/
def execExtRequest (s : State) : Host.Outcome State Fault Refusal := runStage codeStage s

/-- `EXT_RESPONSE`, R121. -/
def execExtResponse (s : State) : Host.Outcome State Fault Refusal := runStage codeStage s

/-- `EXT_ACK48`, R122. -/
def execExtAck48 (s : State) : Host.Outcome State Fault Refusal := runStage ack48Stage s

/-- `EXT_ACK24`, R123. -/
def execExtAck24 (s : State) : Host.Outcome State Fault Refusal := runStage ack24Stage s

/-- `EXT_UNPARSED_T2`, R124. -/
def execExtUnparsedT2 (s : State) : Host.Outcome State Fault Refusal := runStage unparsedStage s

/-- `EXT_UNPARSED_T4`, R124. -/
def execExtUnparsedT4 (s : State) : Host.Outcome State Fault Refusal := runStage unparsedStage s

/-- `EXT_UNPARSED_T5`, R124. -/
def execExtUnparsedT5 (s : State) : Host.Outcome State Fault Refusal := runStage unparsedStage s

/-- `EXT_UNPARSED_T6`, R124. -/
def execExtUnparsedT6 (s : State) : Host.Outcome State Fault Refusal := runStage unparsedStage s

/-- `EXT_UNPARSED_T7`, R124. -/
def execExtUnparsedT7 (s : State) : Host.Outcome State Fault Refusal := runStage unparsedStage s

/-- `EXT_UNPARSED_T8`, R124. -/
def execExtUnparsedT8 (s : State) : Host.Outcome State Fault Refusal := runStage unparsedStage s

/-- `EXT_UNPARSED_T9`, R124. -/
def execExtUnparsedT9 (s : State) : Host.Outcome State Fault Refusal := runStage unparsedStage s

/-- `EXT_UNPARSED_T10`, R124. -/
def execExtUnparsedT10 (s : State) : Host.Outcome State Fault Refusal := runStage unparsedStage s

/-- `EXT_UNPARSED_T11`, R124. -/
def execExtUnparsedT11 (s : State) : Host.Outcome State Fault Refusal := runStage unparsedStage s

/-- `EXT_UNPARSED_T12`, R124. -/
def execExtUnparsedT12 (s : State) : Host.Outcome State Fault Refusal := runStage unparsedStage s

/-- `EXT_UNPARSED_T13`, R124. -/
def execExtUnparsedT13 (s : State) : Host.Outcome State Fault Refusal := runStage unparsedStage s

/-- `EXT_UNPARSED_T14`, R124. -/
def execExtUnparsedT14 (s : State) : Host.Outcome State Fault Refusal := runStage unparsedStage s

/-- `EXT_UNPARSED_T15`, R124. -/
def execExtUnparsedT15 (s : State) : Host.Outcome State Fault Refusal := runStage unparsedStage s

end Sys2Proof.Machine
end

