-- ==== Sys2Proof/Machine/FixedHeader.lean ====
section
/-! DEFINITION. Stage 1, the Fixed Header Decoder (spec/40_fixed_header.md). -/

namespace Sys2Proof.Machine

/-- `HDR_FIXED` (R80 to R86). The length check needs 12 bytes from offset 0; the fields end at offset
8, so the cursor is 9 afterwards (90_conflicts.md C1). -/
def hdrFixedStage (q : Request) (e : Eval) : Except Fault Eval :=
  requireBytes .truncHdr 0#16 Config.minHdr q do
    let sourcePort ← readU16 q 0
    let destPort ← readU16 q 2
    let dataOffset ← readU8 q 4
    let byte5 ← readU8 q 5
    let checksum ← readU16 q 6
    let byte8 ← readU8 q 8
    return {
      next := some .seq
      cur := BitVec.ofNat 16 Config.fixEnd
      record := { e.record with
        sourcePort := sourcePort
        destPort := destPort
        dataOffset := dataOffset
        ccval := ccvalBits byte5
        cscov := cscovBits byte5
        checksum := checksum
        reserved := reservedBits byte8
        type := typeBits byte8
        x := extendedSeqFlag byte8 } }

/-- `HDR_FIXED`, R80. -/
def execHdrFixed (s : State) : Host.Outcome State Fault Refusal := runStage hdrFixedStage s

end Sys2Proof.Machine
end

