-- ==== Sys2Proof/Machine/Sequence.lean ====
section
/-! DEFINITION. Stage 2, the Sequence Number Decoder (spec/41_sequence.md). -/

namespace Sys2Proof.Machine

/-- `SEQ48` (R100): a spacer, not read, then a 48-bit value; 7 bytes consumed. -/
def seq48Stage (q : Request) (e : Eval) : Except Fault Eval :=
  requireBytes .truncSeq e.cur 7 q do
    let value ← readU48 q (e.cur.toNat + 1)
    return { next := some .ext, cur := e.cur + 7#16, record := e.record.withSequence value 0#24 }

/-- `SEQ24` (R101): three raw bytes, no spacer; 3 bytes consumed. -/
def seq24Stage (q : Request) (e : Eval) : Except Fault Eval :=
  requireBytes .truncSeq e.cur 3 q do
    let raw ← readU24 q e.cur.toNat
    return { next := some .ext, cur := e.cur + 3#16, record := e.record.withSequence 0#48 raw }

/-- `SEQ48`, R100. -/
def execSeq48 (s : State) : Host.Outcome State Fault Refusal := runStage seq48Stage s

/-- `SEQ24`, R101. -/
def execSeq24 (s : State) : Host.Outcome State Fault Refusal := runStage seq24Stage s

end Sys2Proof.Machine
end

