-- ==== Sys2Proof/Machine/Decoder.lean ====
section
/-! DEFINITION. The composed decode (spec/43_transaction.md rule R140). -/

namespace Sys2Proof.Machine

/-- Goes on with the next stage unless the evaluation has ended: an error ends the whole decode at
once (R142, R165). -/
def unlessEnded (e : Eval) (k : Except Fault Eval) : Except Fault Eval :=
  if e.next = none then .ok e else k

/-- Stage 2: `x` of the record chooses the operation (R29, R140). -/
def sequenceStage (q : Request) (e : Eval) : Except Fault Eval :=
  if e.record.x = 1#1 then seq48Stage q e else seq24Stage q e

/-- Stage 3: the dispatch on (`type`, `x`) of the record; the first line that matches wins (R120). -/
def extensionStage (q : Request) (e : Eval) : Except Fault Eval :=
  if e.record.type = 0#4 ∨ e.record.type = 1#4 then codeStage q e
  else if e.record.type = 3#4 ∧ e.record.x = 1#1 then ack48Stage q e
  else if e.record.type = 3#4 ∧ e.record.x = 0#1 then ack24Stage q e
  else unparsedStage q e

/-- `Decode(L, B)` (R140): the three stages in order over one cursor, from the empty record. -/
def decodeRequest (q : Request) : Except Fault Result := do
  let e1 ← hdrFixedStage q Eval.start
  let e2 ← unlessEnded e1 (sequenceStage q e1)
  let e3 ← unlessEnded e2 (extensionStage q e2)
  return e3.record

end Sys2Proof.Machine
end

