-- ==== Sys2Proof/Machine/PortSteps.lean ====
section
/-! DEFINITION. The four port steps, one of which happens at each rising edge of `clk`
(spec/43_transaction.md section 2, spec/70_reset_and_hazards.md section 1). Which one is the choice of
`decodeEdge`; each ends the cycle. -/

namespace Sys2Proof.Machine

/-- `ACCEPT` (R144): `R <= Decode(req_len, req_bytes)` on this cycle's values, `st <= FULL`. -/
def execAccept (s : State) : Host.Outcome State Fault Refusal :=
  match decodeRequest s.request with
  | .ok r    => .next { s.endCycle with st := .full, R := r }
  | .error f => .fault f

/-- `COMPLETE` (R145): `st <= IDLE`; `R` keeps its value. -/
def execComplete (s : State) : Host.Outcome State Fault Refusal :=
  .next { s.endCycle with st := .idle }

/-- `HOLD` (R146): `st` and `R` keep their values. -/
def execHold (s : State) : Host.Outcome State Fault Refusal := .next s.endCycle

/-- `RESET` (R181): `st <= IDLE`, all fields of `R` 0. A response pending in `R` is lost (R182). -/
def execReset (s : State) : Host.Outcome State Fault Refusal :=
  .next { s.endCycle with st := .idle, R := Result.zero }

end Sys2Proof.Machine
end

