-- ==== Sys2Proof/Machine/Dispatch.lean ====
section
/-! DEFINITION. One arm per constructor of `Instr`, each one call of that operation's meaning. -/

namespace Sys2Proof.Machine

def exec (i : Instr) (s : State) : Host.Outcome State Fault Refusal :=
  match i with
  | .hdrFixed _ => Sys2Proof.Machine.execHdrFixed s
  | .seq48 _ => Sys2Proof.Machine.execSeq48 s
  | .seq24 _ => Sys2Proof.Machine.execSeq24 s
  | .extRequest _ => Sys2Proof.Machine.execExtRequest s
  | .extResponse _ => Sys2Proof.Machine.execExtResponse s
  | .extAck48 _ => Sys2Proof.Machine.execExtAck48 s
  | .extAck24 _ => Sys2Proof.Machine.execExtAck24 s
  | .extUnparsedT2 _ => Sys2Proof.Machine.execExtUnparsedT2 s
  | .extUnparsedT4 _ => Sys2Proof.Machine.execExtUnparsedT4 s
  | .extUnparsedT5 _ => Sys2Proof.Machine.execExtUnparsedT5 s
  | .extUnparsedT6 _ => Sys2Proof.Machine.execExtUnparsedT6 s
  | .extUnparsedT7 _ => Sys2Proof.Machine.execExtUnparsedT7 s
  | .extUnparsedT8 _ => Sys2Proof.Machine.execExtUnparsedT8 s
  | .extUnparsedT9 _ => Sys2Proof.Machine.execExtUnparsedT9 s
  | .extUnparsedT10 _ => Sys2Proof.Machine.execExtUnparsedT10 s
  | .extUnparsedT11 _ => Sys2Proof.Machine.execExtUnparsedT11 s
  | .extUnparsedT12 _ => Sys2Proof.Machine.execExtUnparsedT12 s
  | .extUnparsedT13 _ => Sys2Proof.Machine.execExtUnparsedT13 s
  | .extUnparsedT14 _ => Sys2Proof.Machine.execExtUnparsedT14 s
  | .extUnparsedT15 _ => Sys2Proof.Machine.execExtUnparsedT15 s
  | .accept => Sys2Proof.Machine.execAccept s
  | .complete => Sys2Proof.Machine.execComplete s
  | .hold => Sys2Proof.Machine.execHold s
  | .reset => Sys2Proof.Machine.execReset s

end Sys2Proof.Machine
end

