-- ==== Sys2Proof/Machine/Fetch.lean ====
section
/-! DEFINITION. What the DHD looks at to choose its next operation, and how a byte 8 is put where the
next step looks. The stage order of spec/00_scope.md rule R2 stands in for a program counter (R12,
R21). -/

namespace Sys2Proof.Machine

/-- The signals in the current cycle that choose the port step. -/
def State.signals (s : State) : EdgeSignals :=
  { rst := s.cycle.rst, st := s.st, reqValid := s.cycle.reqValid, rspReady := s.cycle.rspReady }

/-- The condition of `ACCEPT` (R144). -/
def State.accepting (s : State) : Bool :=
  !s.cycle.rst && s.st == .idle && s.cycle.reqValid

/-- The stage of `Decode` still to run in this cycle: none unless the cycle's edge accepts. -/
def State.pendingStage (s : State) : Option Stage := if s.accepting then s.ev.next else none

/-- What selects the next operation: byte 8, on its lane, while a stage is to run; else the signals.
`HDR_FIXED` is selected by any value of the lane, one that carries no buffer byte (`L` ≤ 8) included
(R24, R68; log entry 8). -/
def State.fetchCode (s : State) : Code :=
  match s.pendingStage with
  | some stage => .header stage (s.request.byteAt 8)
  | none       => .edge s.signals

/-- The operation that the next step runs. -/
def State.nextInstr (s : State) : Instr := decode s.fetchCode

/-- The evaluation of a request up to the extension stage. -/
def evalToExtension (q : Request) : Eval :=
  match hdrFixedStage q Eval.start with
  | .error _ => Eval.start
  | .ok e1 =>
    match unlessEnded e1 (sequenceStage q e1) with
    | .error _ => Eval.start
    | .ok e2 => e2

/-- A request whose window is whole (`L` = `WIN` = 24) and whose byte 8 is the given one. -/
def Request.withSelector (q : Request) (b : Byte) : Request :=
  { len := BitVec.ofNat 16 Config.win, buf := q.buf.write 8 b }

/-- The state in which the next step runs the extension operation that a byte 8 selects: the DHD idle
and out of reset, a request of 24 bytes with that byte 8 on the port, its first two stages run (log
entry 7). -/
def State.placeSelector (s : State) (b : Byte) : State :=
  let q := s.request.withSelector b
  { s with
    st := .idle
    inputs := { s.cycle with rst := false, reqValid := true, req := q } :: s.inputs.tail
    ev := evalToExtension q }

end Sys2Proof.Machine
end

