-- ==== Sys2Proof/Machine/Step.lean ====
section
/-! DEFINITION. One step of the DHD: a stage of `Decode` within an accepting cycle, or the clock edge
that ends a cycle (log entry 2). -/

namespace Sys2Proof.Machine

/-- Runs the operation that is selected now. -/
def step (s : State) : Host.Outcome State Fault Refusal := exec s.nextInstr s

/-- The state in which the next step runs the operation that `decodeTableWord nbits w` answers: `w` as
byte 8. The table's bits of a header operation are those of byte 8, so no other bit is placed. -/
def State.withFetchWord (s : State) (_nbits w : Nat) : State := s.placeSelector (BitVec.ofNat 8 w)

end Sys2Proof.Machine
end

