-- ==== Sys2Proof/Machine/HostScript.lean ====
section
/-! DEFINITION. The text notation of spec/30_encoding.md rules R72 and R73 as data: a packet written as
its bytes, and host scripts as the input cycles they make the host drive. -/

namespace Sys2Proof.Machine

/-- A packet written as its bytes, offset 0 first; its length is their number (R72). -/
def Request.ofBytes (bytes : List Byte) : Request :=
  { len := BitVec.ofNat 16 bytes.length, buf := Memory.ofBytes bytes }

/-- A packet whose length is given apart, as `L=<n>` (R72). -/
def Request.ofBytesLen (len : Nat) (bytes : List Byte) : Request :=
  { len := BitVec.ofNat 16 len, buf := Memory.ofBytes bytes }

/-- The commands of a host script (R72). -/
inductive HostCmd where
  | reset
  | send (q : Request)
  | take
  | wait (n : Nat)
deriving DecidableEq, Repr

/-- `DECODE <bytes>` is `SEND <bytes>` and then `TAKE` (R73). -/
def decodeCmd (q : Request) : List HostCmd := [.send q, .take]

/-- What a command drives in each of its cycles (R72). -/
def HostCmd.drive : HostCmd → Cycle
  | .reset  => { Cycle.quiet with rst := true }
  | .send q => { Cycle.quiet with reqValid := true, req := q }
  | .take   => { Cycle.quiet with rspReady := true }
  | .wait _ => Cycle.quiet

/-- The cycles a command takes when it begins with the given `st`, and `st` after them. A `SEND` lasts
until an accepting edge: it never ends while `st` = `FULL`, for which there is no answer. In the same
way a `TAKE` never ends while `st` = `IDLE` (log entry 10). -/
def HostCmd.cycles (cmd : HostCmd) (st : Handshake) : Option (List Cycle × Handshake) :=
  match cmd, st with
  | .reset,  _     => some ([cmd.drive], .idle)
  | .send _, .idle => some ([cmd.drive], .full)
  | .send _, .full => none
  | .take,   .full => some ([cmd.drive], .idle)
  | .take,   .idle => none
  | .wait n, st    => some (List.replicate n cmd.drive, st)

/-- The cycles of a whole script, none where a command never ends. -/
def scriptCycles : List HostCmd → Handshake → Option (List Cycle)
  | [], _ => some []
  | cmd :: rest, st => do
    let (cs, st') ← cmd.cycles st
    let more ← scriptCycles rest st'
    return cs ++ more

end Sys2Proof.Machine
end

