-- ==== Sys2Proof/Machine/Ports.lean ====
section
/-! DEFINITION. The output ports (spec/10_state.md rules R23, R26 to R28, R30): functions of the state
and of the current cycle's inputs, not registers. -/

namespace Sys2Proof.Machine

/-- The value of `st` in the register (R25). -/
def handshakeCode : Handshake → BitVec 1
  | .idle => 0#1
  | .full => 1#1

/-- The `status` encoding (R27). -/
def statusCode : Status → BitVec 2
  | .ok       => 0#2
  | .truncHdr => 1#2
  | .truncSeq => 2#2
  | .truncExt => 3#2

/-- The `ext_kind` encoding (R28). -/
def extKindCode : ExtKind → BitVec 2
  | .none     => 0#2
  | .reqresp  => 1#2
  | .ack      => 2#2
  | .unparsed => 3#2

/-- `req_ready = (st == IDLE) and (rst == 0)` (R30). -/
def State.reqReady (s : State) : Bool := s.st == .idle && !s.cycle.rst

/-- `rsp_valid = (st == FULL)` (R30). -/
def State.rspValid (s : State) : Bool := s.st == .full

/-- The response on the response port: `R`, in a cycle with `rsp_valid` = 1 only. With `rsp_valid` = 0
`R` is no response and nothing may be read from it (R186, U3 of 93_implementation_defined.md). -/
def State.response (s : State) : Option Result := if s.rspValid then some s.R else none

/-- The output ports (R23). Every `rsp_<f>` is driven from its register at all times (R26); when it may be
read is R186's, `State.response`. -/
structure Outputs where
  reqReady : Bool
  rspValid : Bool
  rsp      : Result
deriving DecidableEq, Repr

/-- What stands on the output ports in the current cycle (R23, R30). -/
def State.outputs (s : State) : Outputs :=
  { reqReady := s.reqReady, rspValid := s.rspValid, rsp := s.R }

/-- The result bank as bits, the fields in the order of R26's table: 229 + 3 * 16 bits (R33). -/
def Result.bits (r : Result) : BitVec 277 :=
  statusCode r.status ++ r.errCursor ++ r.errNeed ++ r.errHave ++ r.sourcePort ++ r.destPort ++
  r.dataOffset ++ r.ccval ++ r.cscov ++ r.checksum ++ r.reserved ++ r.type ++ r.x ++ r.seq48 ++
  r.seqRaw24 ++ extKindCode r.extKind ++ r.code ++ r.ack48 ++ r.ackUnsupported ++ r.rawOff ++
  r.rawLen ++ r.hdrLen

/-- Every register of the DHD as bits: `st` and `R`, 278 bits (R33). -/
def State.registerBits (s : State) : BitVec 278 := handshakeCode s.st ++ s.R.bits

end Sys2Proof.Machine
end

