-- ==== Sys2Proof/Machine/Trace.lean ====
section
/-! DEFINITION. What a host sees of a run: requests taken in, responses given up and resets, in order
(spec/20_memory.md rule R53, spec/43_transaction.md rule R148). -/

namespace Sys2Proof.Machine

/-- What can happen at a clock edge, as the host sees it. -/
inductive Event where
  | accepted (q : Request)   -- `ACCEPT` of this request
  | taken (r : Result)       -- `COMPLETE`: the host takes the response from `rsp_*` in that cycle (R145)
  | reset                    -- a reset edge
deriving DecidableEq, Repr

/-- The event of the next step, none for a step with which nothing passes a port. -/
def State.event (s : State) : Option Event :=
  match s.nextInstr with
  | .accept   => some (.accepted s.request)
  | .complete => some (.taken s.R)
  | .reset    => some .reset
  | .hold     => none
  | .hdrFixed _ | .seq48 _ | .seq24 _ | .extRequest _ | .extResponse _ | .extAck48 _ | .extAck24 _
  | .extUnparsedT2 _ | .extUnparsedT4 _ | .extUnparsedT5 _ | .extUnparsedT6 _ | .extUnparsedT7 _
  | .extUnparsedT8 _ | .extUnparsedT9 _ | .extUnparsedT10 _ | .extUnparsedT11 _
  | .extUnparsedT12 _ | .extUnparsedT13 _ | .extUnparsedT14 _ | .extUnparsedT15 _ => none

/-- The events of `k` steps and the state after them. A run that stops ends where it stops. -/
def trace : Nat → State → List Event × State
  | 0, s => ([], s)
  | k + 1, s =>
    match step s with
    | .next t    => (s.event.toList ++ (trace k t).1, (trace k t).2)
    | .fault _   => ([], s)
    | .refused _ => ([], s)

/-- The requests accepted in a trace, in order. -/
def acceptedRequests : List Event → List Request
  | [] => []
  | .accepted q :: es => q :: acceptedRequests es
  | .taken _ :: es => acceptedRequests es
  | .reset :: es => acceptedRequests es

/-- The responses taken in a trace, in order. -/
def takenResponses : List Event → List Result
  | [] => []
  | .accepted _ :: es => takenResponses es
  | .taken r :: es => r :: takenResponses es
  | .reset :: es => takenResponses es

end Sys2Proof.Machine
end

