-- ==== Sys2Proof/Safety.lean ====
section
/-! DEFINITION. What the claims say of states and records: when a record is one the spec allows, what
an error record is, when the evaluation in progress is an evaluation of `Decode`, and the invariant
that every step keeps. -/

namespace Sys2Proof.Machine

/-- `L` of a request as a number. -/
def Request.length (q : Request) : Nat := q.len.toNat

/-- `type` as byte 8 of a request says it (R85). -/
def Request.typeCode (q : Request) : BitVec 4 := typeBits (q.byteAt 8)

/-- `x` as byte 8 of a request says it (R85). -/
def Request.xFlag (q : Request) : BitVec 1 := xBit (q.byteAt 8)

/-- The extension cursor `c3`: 16 when `x` = 1 and 12 when `x` = 0 (R51, R103). -/
def Request.extCursor (q : Request) : Nat := if q.xFlag = 1#1 then 16 else 12

/-- The response to a decode that failed: every field 0 but `status` and the `err_*` fields (R142). -/
def errorRecord (status : Status) (cursor need available : Nat) : Result :=
  { Result.zero with
    status := status
    errCursor := BitVec.ofNat 8 cursor
    errNeed := BitVec.ofNat 8 need
    errHave := BitVec.ofNat 8 available }

/-- The part of a successful record that the first two stages write (R81 to R85, R100, R101, R141): the
fixed fields, and the sequence field that `x` selects, the other one 0. -/
def headerRecord (q : Request) : Result :=
  { Result.zero with
    sourcePort := q.byteAt 0 ++ q.byteAt 1
    destPort := q.byteAt 2 ++ q.byteAt 3
    dataOffset := q.byteAt 4
    ccval := (q.byteAt 5).extractLsb' 4 4
    cscov := (q.byteAt 5).extractLsb' 0 4
    checksum := q.byteAt 6 ++ q.byteAt 7
    reserved := (q.byteAt 8).extractLsb' 5 3
    type := (q.byteAt 8).extractLsb' 1 4
    x := (q.byteAt 8).extractLsb' 0 1
    seq48 :=
      if q.xFlag = 1#1 then
        q.byteAt 10 ++ q.byteAt 11 ++ q.byteAt 12 ++ q.byteAt 13 ++ q.byteAt 14 ++ q.byteAt 15
      else 0#48
    seqRaw24 := if q.xFlag = 1#1 then 0#24 else q.byteAt 9 ++ q.byteAt 10 ++ q.byteAt 11 }

/-- The extension variant that a type code determines (R120). -/
def kindOfType (t : BitVec 4) : ExtKind :=
  if t = 0#4 ∨ t = 1#4 then .reqresp else if t = 3#4 then .ack else .unparsed

/-- The Unparsed arms with their type codes: 2 and 4 to 15 (R124). -/
def unparsedArms (sel : Selector) : List (Nat × Instr) :=
  [(2, .extUnparsedT2 sel), (4, .extUnparsedT4 sel), (5, .extUnparsedT5 sel),
   (6, .extUnparsedT6 sel), (7, .extUnparsedT7 sel), (8, .extUnparsedT8 sel),
   (9, .extUnparsedT9 sel), (10, .extUnparsedT10 sel), (11, .extUnparsedT11 sel),
   (12, .extUnparsedT12 sel), (13, .extUnparsedT13 sel), (14, .extUnparsedT14 sel),
   (15, .extUnparsedT15 sel)]

/-- The record is one the rules allow in `R`: on an error nothing but `status` and `err_*` (R142) with
`err_have` < `err_need` (R167); on success no `err_*`, one sequence representation (R104) and 0 in the
fields of every variant but its own (R141). The record of all zeros, the reset value, is one. -/
def Result.Coherent (r : Result) : Prop :=
  (r.status ≠ .ok →
    r = errorRecord r.status r.errCursor.toNat r.errNeed.toNat r.errHave.toNat ∧
    r.errHave < r.errNeed) ∧
  (r.status = .ok →
    r.errCursor = 0#8 ∧ r.errNeed = 0#8 ∧ r.errHave = 0#8 ∧
    (r.x = 1#1 → r.seqRaw24 = 0#24) ∧ (r.x = 0#1 → r.seq48 = 0#48)) ∧
  (r.extKind ≠ .reqresp → r.code = 0#8) ∧
  (r.extKind ≠ .ack → r.ack48 = 0#48 ∧ r.ackUnsupported = 0#1) ∧
  (r.extKind ≠ .unparsed → r.rawOff = 0#16 ∧ r.rawLen = 0#16)

/-- The record is a response: `ext_kind` is `NONE` exactly when `status` is not `OK` (R28). Not so for
the reset value. -/
def Result.IsResponse (r : Result) : Prop := r.extKind = .none ↔ r.status ≠ .ok

/-- Carries an evaluation of `Decode` to its end, with the rest of R140's stages. -/
def resumeDecode (q : Request) (e : Eval) : Except Fault Result :=
  match e.next with
  | none => .ok e.record
  | some .hdr => do
    let e1 ← hdrFixedStage q e
    let e2 ← unlessEnded e1 (sequenceStage q e1)
    let e3 ← unlessEnded e2 (extensionStage q e2)
    return e3.record
  | some .seq => do
    let e2 ← sequenceStage q e
    let e3 ← unlessEnded e2 (extensionStage q e2)
    return e3.record
  | some .ext => do
    let e3 ← extensionStage q e
    return e3.record

/-- Where an evaluation of this request stands before each stage: the cursor (R86, R103), the length
the stages so far have checked, and the two fields that choose the operations. -/
def Eval.Positioned (q : Request) (e : Eval) : Prop :=
  match e.next with
  | none      => True
  | some .hdr => e = Eval.start
  | some .seq => e.cur = 9#16 ∧ 12 ≤ q.length ∧ e.record.type = q.typeCode ∧ e.record.x = q.xFlag
  | some .ext =>
    e.cur = BitVec.ofNat 16 q.extCursor ∧ q.extCursor ≤ q.length ∧
    e.record.type = q.typeCode ∧ e.record.x = q.xFlag

/-- The evaluation is one of `Decode` of this request: it stands where the stages leave it, and carried
to its end it gives what `Decode` gives. -/
def Eval.Honest (q : Request) (e : Eval) : Prop :=
  e.Positioned q ∧ resumeDecode q e = decodeRequest q

/-- The invariant that every step keeps and that holds after reset. The clauses: the packet buffers
are in their canonical form; `R` holds a record that the rules allow, and a response while `st` is
`FULL`; the evaluation in progress is one of `Decode` of the request on the ports; and outside an
accepting cycle no evaluation has begun. -/
structure State.Inv (s : State) : Prop where
  buffers  : ∀ c ∈ s.inputs, c.req.buf.wf = true
  coherent : s.R.Coherent
  response : s.st = .full → s.R.IsResponse
  honest   : s.ev.Honest s.request
  fresh    : s.accepting = false → s.ev = Eval.start

end Sys2Proof.Machine
end

