-- ==== Sys2Proof/Certificates/Slice0/Obligations.lean ====
section
/-! DEFINITION. The statements about the model, for the provers. Each docstring names the rule of
spec/ that the statement formalises. -/

open Sys2Proof Sys2Proof.Machine

/-! ## Selecting operations -/

/-- Every well-formed operation is what the decoder selects from its own encoding (R62, R68): no bit
of byte 8 is dropped. -/
def Obligations.DecodeOfEncodeIsTheOperation : Prop :=
  ∀ i : Instr, i.wellFormed = true → decode (encode i) = i

/-- Every value of byte 8 selects one operation at each stage, that operation's encoding is that byte,
its match and mask fit it, and any row of the same stage that fits the byte is the row selected (R68,
R69). -/
def Obligations.EveryByteSelectsOneRowPerStage : Prop :=
  ∀ (stage : Stage) (b : Byte),
    encode (decodeAt stage b) = .header stage b ∧
    (decodeAt stage b).wellFormed = true ∧
    (decodeAt stage b).rowMatches b = true ∧
    ∀ i : Instr, i.stage = some stage → i.rowMatches b = true → i.row = (decodeAt stage b).row

/-- Words written out from the patterns of R68 decode to the operations they stand for. -/
def Obligations.TableWordsDecode : Prop :=
  decodeAt .hdr 0b10101101#8 = .hdrFixed { reserved := 5#3, type := 6#4, x := 1#1 } ∧
  decodeAt .seq 0b00000001#8 = .seq48 { reserved := 0#3, type := 0#4, x := 1#1 } ∧
  decodeAt .seq 0b11100110#8 = .seq24 { reserved := 7#3, type := 3#4, x := 0#1 } ∧
  decodeAt .ext 0b00000001#8 = .extRequest { reserved := 0#3, type := 0#4, x := 1#1 } ∧
  decodeAt .ext 0b00000010#8 = .extResponse { reserved := 0#3, type := 1#4, x := 0#1 } ∧
  decodeAt .ext 0b00000111#8 = .extAck48 { reserved := 0#3, type := 3#4, x := 1#1 } ∧
  decodeAt .ext 0b11100110#8 = .extAck24 { reserved := 7#3, type := 3#4, x := 0#1 } ∧
  decodeAt .ext 0b00000101#8 = .extUnparsedT2 { reserved := 0#3, type := 2#4, x := 1#1 } ∧
  decodeAt .ext 0b11111111#8 = .extUnparsedT15 { reserved := 7#3, type := 15#4, x := 1#1 }

/-- The model's answer to the host's question about a table word (log entries 6 and 7): the state made
for a byte 8 runs the extension operation that `decodeTableWord` reads from it, in a state that meets
the invariant where the one before did. -/
def Obligations.PlacedTableWordRunsNext : Prop :=
  ∀ (s : State) (w : Nat), s.Inv → w < 256 →
    decodeTableWord 8 w = some (s.withFetchWord 8 w).nextInstr ∧
    step (s.withFetchWord 8 w) = exec (s.withFetchWord 8 w).nextInstr (s.withFetchWord 8 w) ∧
    (s.withFetchWord 8 w).Inv

/-! ## Reading the packet buffer -/

/-- Buffer byte `B[i]` is on `req_bytes[8i+7 : 8i]`, for i = 0 to 23 (R24). -/
def Obligations.RequestLanesCarryTheBytes : Prop :=
  ∀ (q : Request) (i : Nat), i < 24 → q.reqBytes.extractLsb' (8 * i) 8 = q.byteAt i

/-- Byte order (R42): in a read of n+1 bytes the byte at the lower offset is the more significant. -/
def Obligations.LowerOffsetIsMoreSignificant : Prop :=
  ∀ (q : Request) (off n : Nat),
    (q.bigEndian off (n + 1)).toNat =
      (q.byteAt off).toNat * 2 ^ (8 * n) + (q.bigEndian (off + 1) n).toNat

/-- `MemRead(off, n)` answers the big-endian value of its n bytes when they lie below `L` and in the
window that the port presents, and it stops the machine otherwise, at the first limit it breaks
(R11, R45; the stop is the model's choice, log entry 5). -/
def Obligations.MemReadReadsOrStops : Prop :=
  ∀ (q : Request) (off n : Nat),
    (off + n ≤ q.length → off + n ≤ 24 → memRead q off n = .ok (q.bigEndian off n)) ∧
    (q.length < off + n → memRead q off n = .error (.readPastEnd (off + n - 1))) ∧
    (off + n ≤ q.length → 24 < off + n → memRead q off n = .error (.outsideWindow (off + n - 1)))

/-- The 48-bit reconstruction (R102): the OR of the shifted high part and the low part is one 6-byte
big-endian read; the high part fills bits 47:16 and the low part bits 15:0. -/
def Obligations.TwoPartReadIsOneSixByteRead : Prop :=
  ∀ (q : Request) (o : Nat),
    joinU48 (q.bigEndian o 4) (q.bigEndian (o + 4) 2) = q.bigEndian o 6 ∧
    (joinU48 (q.bigEndian o 4) (q.bigEndian (o + 4) 2)).extractLsb' 16 32 = q.bigEndian o 4 ∧
    (joinU48 (q.bigEndian o 4) (q.bigEndian (o + 4) 2)).extractLsb' 0 16 = q.bigEndian (o + 4) 2 ∧
    (o + 6 ≤ q.length → o + 6 ≤ 24 → readU48 q o = .ok (q.bigEndian o 6))

/-- The sub-fields of bytes 5 and 8 (R61, R62, R64, R83, R85): the shifts and masks take the named
bits, and the sub-fields of byte 8 put together again are byte 8. -/
def Obligations.PackedSubFieldsAreTheNamedBits : Prop :=
  ∀ b : Byte,
    ccvalBits b = b.extractLsb' 4 4 ∧ cscovBits b = b.extractLsb' 0 4 ∧
    reservedBits b = b.extractLsb' 5 3 ∧ typeBits b = b.extractLsb' 1 4 ∧
    xBit b = b.extractLsb' 0 1 ∧ (Selector.ofByte b).toByte = b

/-! ## The header operations -/

/-- `HDR_FIXED` (R80, R81, R83). Any byte 8 selects it. With 12 bytes or more it completes: it writes the nine fixed fields and
leaves the cursor at 9. With fewer it ends the decode with `TruncatedHeader`. In both cases `st`, `R`,
the ports and every buffer byte are as before, and the record keeps its other fields when it
completes. -/
def Obligations.HdrFixedUnpacksTheFixedFields : Prop :=
  (∀ b : Byte, decodeAt .hdr b = .hdrFixed (Selector.ofByte b)) ∧
  ∀ (sel : Selector) (s : State),
    (12 ≤ s.request.length →
      exec (.hdrFixed sel) s = .next { s with ev := {
        next := some .seq
        cur := 9#16
        record := { s.ev.record with
          sourcePort := s.request.byteAt 0 ++ s.request.byteAt 1
          destPort := s.request.byteAt 2 ++ s.request.byteAt 3
          dataOffset := s.request.byteAt 4
          ccval := (s.request.byteAt 5).extractLsb' 4 4
          cscov := (s.request.byteAt 5).extractLsb' 0 4
          checksum := s.request.byteAt 6 ++ s.request.byteAt 7
          reserved := (s.request.byteAt 8).extractLsb' 5 3
          type := (s.request.byteAt 8).extractLsb' 1 4
          x := (s.request.byteAt 8).extractLsb' 0 1 } } }) ∧
    (s.request.length < 12 →
      exec (.hdrFixed sel) s = .next { s with ev := {
        next := none, cur := 0#16, record := errorRecord .truncHdr 0 12 s.request.length } })

/-- `SEQ48` (R100), selected by bit 0 of byte 8, at its cursor, 9. With 16 bytes or more it completes:
`seq48` is the value of bytes 10 to 15, `seq_raw24` is 0, and the cursor is 16. With fewer (12 to 15,
once stage 1 has passed) it ends the decode with `TruncatedSequence`. Nothing else changes. -/
def Obligations.SeqFortyEightReadsBytesTenToFifteen : Prop :=
  (∀ b : Byte, decodeAt .seq b = .seq48 (Selector.ofByte b) ↔ b &&& 0x01#8 = 0x01#8) ∧
  ∀ (sel : Selector) (s : State), s.ev.cur = 9#16 →
    (16 ≤ s.request.length →
      exec (.seq48 sel) s = .next { s with ev := {
        next := some .ext
        cur := 16#16
        record := { s.ev.record with
          seq48 := s.request.byteAt 10 ++ s.request.byteAt 11 ++ s.request.byteAt 12 ++
            s.request.byteAt 13 ++ s.request.byteAt 14 ++ s.request.byteAt 15
          seqRaw24 := 0#24 } } }) ∧
    (9 ≤ s.request.length → s.request.length < 16 →
      exec (.seq48 sel) s = .next { s with ev := {
        next := none, cur := 9#16
        record := errorRecord .truncSeq 9 7 (s.request.length - 9) } })

/-- `SEQ24` (R101), selected by bit 0 of byte 8 clear, at its cursor, 9. In a buffer that passed stage 1
it completes: `seq_raw24` is bytes 9 to 11, byte 9 in bits 23:16, `seq48` is 0, and the cursor is 12. In
a shorter one, which no decode brings to this stage, its check raises `TruncatedSequence`. Nothing else
changes. -/
def Obligations.SeqTwentyFourPassesRawBytes : Prop :=
  (∀ b : Byte, decodeAt .seq b = .seq24 (Selector.ofByte b) ↔ b &&& 0x01#8 = 0x00#8) ∧
  ∀ (sel : Selector) (s : State), s.ev.cur = 9#16 →
    (12 ≤ s.request.length →
      exec (.seq24 sel) s = .next { s with ev := {
        next := some .ext
        cur := 12#16
        record := { s.ev.record with
          seq48 := 0#48
          seqRaw24 := s.request.byteAt 9 ++ s.request.byteAt 10 ++ s.request.byteAt 11 } } }) ∧
    (9 ≤ s.request.length → s.request.length < 12 →
      exec (.seq24 sel) s = .next { s with ev := {
        next := none, cur := 9#16
        record := errorRecord .truncSeq 9 3 (s.request.length - 9) } })

/-- `EXT_REQUEST` and `EXT_RESPONSE` (R121), selected by types 0 and 1, at either extension
cursor. With two bytes from the cursor they complete: `code` is the second, the other extension fields
are 0, and `hdr_len` is the cursor after both. With fewer they end the decode with `TruncatedExtension`. Nothing else changes. -/
def Obligations.RequestAndResponseReadTheCode : Prop :=
  (∀ b : Byte,
    (decodeAt .ext b = .extRequest (Selector.ofByte b) ↔ b &&& 0x1E#8 = 0x00#8) ∧
    (decodeAt .ext b = .extResponse (Selector.ofByte b) ↔ b &&& 0x1E#8 = 0x02#8)) ∧
  ∀ (sel : Selector) (s : State) (c : Nat), c = 12 ∨ c = 16 → s.ev.cur = BitVec.ofNat 16 c →
    ∀ i, i = Instr.extRequest sel ∨ i = Instr.extResponse sel →
      (c + 2 ≤ s.request.length →
        exec i s = .next { s with ev := {
          next := none
          cur := BitVec.ofNat 16 (c + 2)
          record := { s.ev.record with
            status := .ok, extKind := .reqresp, code := s.request.byteAt (c + 1), ack48 := 0#48,
            ackUnsupported := 0#1, rawOff := 0#16, rawLen := 0#16,
            hdrLen := BitVec.ofNat 16 (c + 2) } } }) ∧
      (c ≤ s.request.length → s.request.length < c + 2 →
        exec i s = .next { s with ev := {
          next := none, cur := BitVec.ofNat 16 c
          record := errorRecord .truncExt c 2 (s.request.length - c) } })

/-- `EXT_ACK48` (R122), selected by type 3 with `x` = 1, at its cursor, 16. With 24 bytes or more it completes: `ack48` is the value of
bytes 18 to 23, `ack_unsupported` and the other extension fields are 0, and `hdr_len` is 24. With 16
to 23 it ends the decode with `TruncatedExtension`. Nothing else changes. -/
def Obligations.AckFortyEightReadsBytesEighteenToTwentyThree : Prop :=
  (∀ b : Byte, decodeAt .ext b = .extAck48 (Selector.ofByte b) ↔ b &&& 0x1F#8 = 0x07#8) ∧
  ∀ (sel : Selector) (s : State), s.ev.cur = 16#16 →
    (24 ≤ s.request.length →
      exec (.extAck48 sel) s = .next { s with ev := {
        next := none
        cur := 24#16
        record := { s.ev.record with
          status := .ok, extKind := .ack, code := 0#8,
          ack48 := s.request.byteAt 18 ++ s.request.byteAt 19 ++ s.request.byteAt 20 ++
            s.request.byteAt 21 ++ s.request.byteAt 22 ++ s.request.byteAt 23
          ackUnsupported := 0#1, rawOff := 0#16, rawLen := 0#16, hdrLen := 24#16 } } }) ∧
    (16 ≤ s.request.length → s.request.length < 24 →
      exec (.extAck48 sel) s = .next { s with ev := {
        next := none, cur := 16#16
        record := errorRecord .truncExt 16 8 (s.request.length - 16) } })

/-- `EXT_ACK24` (R123), selected by type 3 with `x` = 0, completes in every state: `ack48` is 0, `ack_unsupported` is 1, nothing is read
and nothing is consumed, and `hdr_len` is the cursor. Nothing else changes. -/
def Obligations.AckTwentyFourSetsTheLimitationMarker : Prop :=
  (∀ b : Byte, decodeAt .ext b = .extAck24 (Selector.ofByte b) ↔ b &&& 0x1F#8 = 0x06#8) ∧
  ∀ (sel : Selector) (s : State),
    exec (.extAck24 sel) s = .next { s with ev := {
      next := none
      cur := s.ev.cur
      record := { s.ev.record with
        status := .ok, extKind := .ack, code := 0#8, ack48 := 0#48, ackUnsupported := 1#1,
        rawOff := 0#16, rawLen := 0#16, hdrLen := s.ev.cur } } }

/-- Each of the thirteen Unparsed arms (R124), selected by its own type code n, completes in every
state: `raw_off` is the cursor, `raw_len` is `L` less it, the other extension fields are 0, and
`hdr_len` is `L`. Nothing else changes. R124 speaks of a cursor that stage 2 left, 12 or 16 and at most
`L`; that at any other cursor `raw_len` is the 16-bit difference is the model's choice (log entry 16). -/
def Obligations.UnparsedArmsNameTheRemainder : Prop :=
  (∀ (b : Byte) (n : Nat) (i : Instr), (n, i) ∈ unparsedArms (Selector.ofByte b) →
    (decodeAt .ext b = i ↔ b &&& 0x1E#8 = BitVec.ofNat 8 n <<< 1)) ∧
  ∀ (sel : Selector) (s : State) (n : Nat) (i : Instr), (n, i) ∈ unparsedArms sel →
    exec i s = .next { s with ev := {
      next := none
      cur := s.request.len
      record := { s.ev.record with
        status := .ok, extKind := .unparsed, code := 0#8, ack48 := 0#48, ackUnsupported := 0#1,
        rawOff := s.ev.cur, rawLen := s.request.len - s.ev.cur, hdrLen := s.request.len } } }

/-- The frame of the header operations (R25, R26, R41): when one gives a next state, `st`, `R` and the
inputs are as before, and so is every byte of the packet buffer. -/
def Obligations.HeaderOperationsLeaveRegistersAndBuffer : Prop :=
  ∀ (i : Instr) (s t : State), i.stage ≠ none → exec i s = .next t →
    t.st = s.st ∧ t.R = s.R ∧ t.inputs = s.inputs ∧
    ∀ a, t.request.byteAt a = s.request.byteAt a

/-! ## The port steps -/

/-- `ACCEPT` (R144) completes in every state: `R` becomes `Decode` of this cycle's request and `st`
becomes `FULL`; the cycles to come are untouched. It is the step of an edge at which `rst` = 0, `st` =
`IDLE` and `req_valid` = 1, `req_ready` being 1 then. That no stage of `Decode` is left to run in the
cycle is the model's premise (log entry 2). -/
def Obligations.AcceptStoresTheDecodedRequest : Prop :=
  ∀ s : State,
    (∃ r, decodeRequest s.request = .ok r ∧
      exec .accept s = .next { st := .full, R := r, inputs := s.inputs.tail, ev := Eval.start }) ∧
    (s.cycle.rst = false → s.st = .idle → s.cycle.reqValid = true → s.ev.next = none →
      s.reqReady = true ∧ step s = exec .accept s)

/-- `COMPLETE` (R145) completes in every state: `st` becomes `IDLE` and `R` keeps its value. It is the
step of an edge at which `rst` = 0, `st` = `FULL` and `rsp_ready` = 1, and the host takes `R` in that
cycle, `rsp_valid` being 1. After it `rsp_valid` is 0. -/
def Obligations.CompleteGivesUpTheResponse : Prop :=
  ∀ s : State,
    (∃ t, exec .complete s = .next t ∧
      t = { st := .idle, R := s.R, inputs := s.inputs.tail, ev := Eval.start } ∧ t.rspValid = false) ∧
    (s.cycle.rst = false → s.st = .full → s.cycle.rspReady = true →
      step s = exec .complete s ∧ s.event = some (.taken s.R) ∧ s.response = some s.R)

/-- `HOLD` (R146) completes in every state: `st` and `R` keep their values. It is the step in every
case in which `rst` = 0 and neither `ACCEPT` nor `COMPLETE` applies. -/
def Obligations.HoldKeepsTheRegisters : Prop :=
  ∀ s : State,
    exec .hold s = .next { st := s.st, R := s.R, inputs := s.inputs.tail, ev := Eval.start } ∧
    (s.cycle.rst = false → ¬ (s.st = .idle ∧ s.cycle.reqValid = true) →
      ¬ (s.st = .full ∧ s.cycle.rspReady = true) → step s = exec .hold s)

/-- `RESET` (R181) completes in every state: `st` becomes `IDLE` and every field of `R` becomes 0, the
registers of `State.reset`. At an edge with `rst` = 1 it is the step, whatever the other inputs are. -/
def Obligations.ResetClearsTheRegisters : Prop :=
  ∀ s : State,
    exec .reset s =
      .next { st := .idle, R := Result.zero, inputs := s.inputs.tail, ev := Eval.start } ∧
    State.reset.st = .idle ∧ State.reset.R = Result.zero ∧ Result.zero.bits = 0#277 ∧
    (s.cycle.rst = true → step s = exec .reset s)

/-- A step runs the decoded operation: in an accepting cycle with a stage of `Decode` to run, the step
is `exec`, at that very state, of the operation the decoder reads at that stage from byte 8. The model
adds nothing around it. -/
def Obligations.StepRunsTheDecodedOperation : Prop :=
  ∀ (s : State) (stage : Stage) (i : Instr),
    s.cycle.rst = false → s.st = .idle → s.cycle.reqValid = true → s.ev.next = some stage →
    decodeBytes stage [s.request.byteAt 8] = .ok (i, []) →
    step s = exec i s

/-- Only the steps of R144 and R145 and reset write `st`; only `ACCEPT` and reset write `R` (R25, R26). -/
def Obligations.OnlyPortStepsWriteTheRegisters : Prop :=
  ∀ s t : State, step s = .next t →
    (t.st ≠ s.st → s.nextInstr = .accept ∨ s.nextInstr = .complete ∨ s.nextInstr = .reset) ∧
    (t.R ≠ s.R → s.nextInstr = .accept ∨ s.nextInstr = .reset)

/-- No step writes the packet buffer (R41): after a step the ports and the cycles to come are those of
before, or those of before less the cycle that has ended. -/
def Obligations.NoStepWritesThePacketBuffer : Prop :=
  ∀ s t : State, step s = .next t →
    (t.inputs = s.inputs ∧ ∀ a, t.request.byteAt a = s.request.byteAt a) ∨
    (t.inputs = s.inputs.tail ∧
      ∀ (k a : Nat), ((t.inputs.map fun c => c.req.byteAt a)[k]?) =
        ((s.inputs.map fun c => c.req.byteAt a)[k + 1]?))

/-- The derived outputs (R30): `req_ready` and `rsp_valid` as equations, never both 1; every
`rsp_<f>` is driven from its register (R26), and there is a response, `R`, exactly while `rsp_valid` is
1 (R186). -/
def Obligations.HandshakeOutputs : Prop :=
  ∀ s : State,
    (s.reqReady = true ↔ s.st = .idle ∧ s.cycle.rst = false) ∧
    (s.rspValid = true ↔ s.st = .full) ∧
    ¬ (s.reqReady = true ∧ s.rspValid = true) ∧
    s.outputs.reqReady = s.reqReady ∧ s.outputs.rspValid = s.rspValid ∧ s.outputs.rsp = s.R ∧
    (s.rspValid = true → s.response = some s.R) ∧ (s.rspValid = false → s.response = none)

/-- The `status` and `ext_kind` encodings (R27, R28): the stated values, no two alike. -/
def Obligations.StatusAndKindEncodings : Prop :=
  statusCode .ok = 0#2 ∧ statusCode .truncHdr = 1#2 ∧ statusCode .truncSeq = 2#2 ∧
  statusCode .truncExt = 3#2 ∧ extKindCode .none = 0#2 ∧ extKindCode .reqresp = 1#2 ∧
  extKindCode .ack = 2#2 ∧ extKindCode .unparsed = 3#2 ∧
  (∀ a b, statusCode a = statusCode b → a = b) ∧ (∀ a b, extKindCode a = extKindCode b → a = b)

/-- The whole state of one DHD is `st` and `R`, 278 bits (R33): those bits are equal exactly when both
are, and after reset all of them are 0. -/
def Obligations.RegisterBitsHoldStAndR : Prop :=
  (∀ s t : State, s.registerBits = t.registerBits ↔ s.st = t.st ∧ s.R = t.R) ∧
  State.reset.registerBits = 0#278

/-! ## The decode -/

/-- Every error of the taxonomy with its condition and all its recorded values, and success in every
other case (R160 to R163, R165). -/
def Obligations.DecodeErrorsAreTheTaxonomy : Prop :=
  ∀ q : Request,
    (q.length < 12 → decodeRequest q = .ok (errorRecord .truncHdr 0 12 q.length)) ∧
    (12 ≤ q.length → q.xFlag = 1#1 → q.length < 16 →
      decodeRequest q = .ok (errorRecord .truncSeq 9 7 (q.length - 9))) ∧
    (q.extCursor ≤ q.length → q.typeCode = 0#4 ∨ q.typeCode = 1#4 → q.length < q.extCursor + 2 →
      decodeRequest q = .ok (errorRecord .truncExt q.extCursor 2 (q.length - q.extCursor))) ∧
    (16 ≤ q.length → q.xFlag = 1#1 → q.typeCode = 3#4 → q.length < 24 →
      decodeRequest q = .ok (errorRecord .truncExt 16 8 (q.length - 16))) ∧
    (q.extCursor ≤ q.length →
      (q.typeCode = 0#4 ∨ q.typeCode = 1#4 → q.extCursor + 2 ≤ q.length) →
      (q.xFlag = 1#1 → q.typeCode = 3#4 → 24 ≤ q.length) →
      ∃ r, decodeRequest q = .ok r ∧ r.status = .ok)

/-- The whole record of a Request or a Response, in either form of the header (R80, R100, R101, R121,
R141, R143). -/
def Obligations.DecodeOfRequestOrResponse : Prop :=
  ∀ q : Request, q.typeCode = 0#4 ∨ q.typeCode = 1#4 → q.extCursor + 2 ≤ q.length →
    decodeRequest q = .ok { headerRecord q with
      extKind := .reqresp
      code := q.byteAt (q.extCursor + 1)
      hdrLen := BitVec.ofNat 16 (q.extCursor + 2) }

/-- The whole record of an Ack in the 48-bit form (R80, R100, R122, R141, R143). -/
def Obligations.DecodeOfExtendedAck : Prop :=
  ∀ q : Request, q.typeCode = 3#4 → q.xFlag = 1#1 → 24 ≤ q.length →
    decodeRequest q = .ok { headerRecord q with
      extKind := .ack
      ack48 := q.byteAt 18 ++ q.byteAt 19 ++ q.byteAt 20 ++ q.byteAt 21 ++ q.byteAt 22 ++ q.byteAt 23
      hdrLen := 24#16 }

/-- The whole record of an Ack in the 24-bit form, for every length that passes stage 1 (R80, R101,
R123, R141, R143). -/
def Obligations.DecodeOfShortAck : Prop :=
  ∀ q : Request, q.typeCode = 3#4 → q.xFlag = 0#1 → 12 ≤ q.length →
    decodeRequest q = .ok { headerRecord q with
      extKind := .ack
      ackUnsupported := 1#1
      hdrLen := 12#16 }

/-- The whole record of every other type, an empty remainder included (R80, R100, R101, R124, R141,
R143). -/
def Obligations.DecodeOfUnparsedTypes : Prop :=
  ∀ q : Request, q.typeCode ≠ 0#4 → q.typeCode ≠ 1#4 → q.typeCode ≠ 3#4 → q.extCursor ≤ q.length →
    decodeRequest q = .ok { headerRecord q with
      extKind := .unparsed
      rawOff := BitVec.ofNat 16 q.extCursor
      rawLen := BitVec.ofNat 16 (q.length - q.extCursor)
      hdrLen := q.len }

/-- On success `hdr_len` is the value of R65's table, and it never exceeds `L` (R143). -/
def Obligations.HeaderLengthOnSuccess : Prop :=
  ∀ (q : Request) (r : Result), decodeRequest q = .ok r → r.status = .ok →
    (r.type = 0#4 ∨ r.type = 1#4 → r.hdrLen = if r.x = 1#1 then 18#16 else 14#16) ∧
    (r.type = 3#4 → r.hdrLen = if r.x = 1#1 then 24#16 else 12#16) ∧
    (r.type ≠ 0#4 → r.type ≠ 1#4 → r.type ≠ 3#4 → r.hdrLen = q.len) ∧
    r.hdrLen ≤ q.len

/-- `Decode` answers for every request, and its record holds 0 in every field that is not meaningful
(R26, R141, R142): on an error all but `status` and `err_*`, with `err_have` < `err_need`; on success
the `err_*` fields, the sequence field that `x` does not select, and the extension fields of the other
variants. -/
def Obligations.DecodeAnswersWithAbsentFieldsZero : Prop :=
  ∀ q : Request, ∃ r, decodeRequest q = .ok r ∧ r.Coherent

/-- Diagnostics (R167): on an error `status` names the failing stage, `err_cursor` is where it started,
`err_need` what it needs, `err_have` what the buffer holds from there; `err_have` < `err_need`, and `L`
is `err_cursor` + `err_have`. In stage 3 `x` alone gives the cursor and `type` alone the need: 8 for an
Ack, 2 for a Request or a Response, the only types that can fail there. -/
def Obligations.DiagnosticsTellStageAndShortfall : Prop :=
  ∀ (q : Request) (r : Result), decodeRequest q = .ok r → r.status ≠ .ok →
    r.errHave.toNat < r.errNeed.toNat ∧
    q.length = r.errCursor.toNat + r.errHave.toNat ∧
    (r.status = .truncHdr → r.errCursor = 0#8 ∧ r.errNeed = 12#8) ∧
    (r.status = .truncSeq → r.errCursor = 9#8 ∧ r.errNeed = 7#8) ∧
    (r.status = .truncExt →
      (q.typeCode = 0#4 ∨ q.typeCode = 1#4 ∨ q.typeCode = 3#4) ∧
      r.errCursor = BitVec.ofNat 8 q.extCursor ∧
      r.errNeed = if q.typeCode = 3#4 then 8#8 else 2#8)

/-- The variant is fully determined by the type code, and `ext_kind` is `NONE` exactly when `status`
is not `OK` (R28, R120). -/
def Obligations.ExtensionKindFollowsTheType : Prop :=
  ∀ (q : Request) (r : Result), decodeRequest q = .ok r →
    (r.status = .ok → r.extKind = kindOfType q.typeCode ∧ r.type = q.typeCode ∧ r.x = q.xFlag) ∧
    (r.extKind = .none ↔ r.status ≠ .ok)

/-- The descriptor of an Unparsed record names the bytes from the extension cursor to `L`-1, all of
them (R47, R124). -/
def Obligations.DescriptorNamesTheRestOfTheBuffer : Prop :=
  ∀ (q : Request) (r : Result), decodeRequest q = .ok r → r.extKind = .unparsed →
    r.rawOff.toNat = q.extCursor ∧ r.rawOff.toNat + r.rawLen.toNat = q.length ∧
    (q.rawBytes r).length = q.length - q.extCursor ∧
    ∀ k, k < q.length - q.extCursor → (q.rawBytes r)[k]? = some (q.byteAt (q.extCursor + k))

/-- Purity (R147): what `ACCEPT` stores depends on `L` and on `B[i]` for i < min(L, 24) only; on no
earlier request and on no register. -/
def Obligations.AcceptedRecordDependsOnThePresentedBytesOnly : Prop :=
  ∀ s s' t t' : State,
    s.request.len = s'.request.len →
    (∀ i, i < s.request.length → i < 24 → s.request.byteAt i = s'.request.byteAt i) →
    exec .accept s = .next t → exec .accept s' = .next t' →
    t.R = t'.R

/-- The offsets read (R46): requests of one length that agree on the bytes the table lists give one
result. So the spacers and the reserved bytes of the 48-bit Ack may hold anything (R70), and no option
or payload byte counts (R125). -/
def Obligations.OnlyTheListedOffsetsAreRead : Prop :=
  ∀ q q' : Request, q.len = q'.len →
    (∀ i, i < 9 → 12 ≤ q.length → q.byteAt i = q'.byteAt i) →
    (∀ i, 9 ≤ i → i < 12 → 12 ≤ q.length → q.xFlag = 0#1 → q.byteAt i = q'.byteAt i) →
    (∀ i, 10 ≤ i → i < 16 → 16 ≤ q.length → q.xFlag = 1#1 → q.byteAt i = q'.byteAt i) →
    (q.typeCode = 0#4 ∨ q.typeCode = 1#4 → q.extCursor + 2 ≤ q.length →
      q.byteAt (q.extCursor + 1) = q'.byteAt (q.extCursor + 1)) →
    (∀ i, 18 ≤ i → i < 24 → 24 ≤ q.length → q.xFlag = 1#1 → q.typeCode = 3#4 →
      q.byteAt i = q'.byteAt i) →
    decodeRequest q = decodeRequest q'

/-! ## Runs -/

/-- The state after reset meets the invariant. -/
def Obligations.ResetMeetsTheInvariant : Prop := State.reset.Inv

/-- Every step from a state that meets the invariant keeps it: `R` stays a record that the rules allow
and, while `st` is `FULL`, a response (R26, R28, R141, R142), the evaluation in progress stays one of
`Decode` of the request on the ports, and the packet buffers keep their canonical form. -/
def Obligations.StepKeepsTheInvariant : Prop :=
  ∀ s t : State, s.Inv → step s = .next t → t.Inv

/-- No read past the end and no stop (R45, R149): from a state that meets the invariant the step gives
a next state. -/
def Obligations.NoStepStopsUnderTheInvariant : Prop :=
  ∀ s : State, s.Inv → ∃ t, step s = .next t

/-- Running the operations that byte 8 selects, one a step, is `Decode`: from the beginning of an
accepting cycle at most three steps end the evaluation with the record that `Decode` gives; no
register and no input changes meanwhile; and the next step is the edge that stores that record and
sets `st` to `FULL` (R2, R68, R140, R144). The steps within the cycle are the model's (log entry 2). -/
def Obligations.SteppedOperationsAreDecode : Prop :=
  ∀ s : State, s.accepting = true → s.ev = Eval.start →
    ∃ (n : Nat) (e : Eval), n ≤ 3 ∧ e.next = none ∧
      decodeRequest s.request = .ok e.record ∧
      Host.Core.run Sys2Proof.core n s = .next { s with ev := e } ∧
      step { s with ev := e } =
        .next { st := .full, R := e.record, inputs := s.inputs.tail, ev := Eval.start }

/-- The transaction view (R53, R148): in a run with no reset, from a state with no response pending,
the k-th response taken is `Decode` of the k-th request accepted; at the end every accepted request
has been answered but for the one whose response is on the port. -/
def Obligations.ResponsesAreDecodesInOrder : Prop :=
  ∀ (k : Nat) (s t : State) (es : List Event),
    s.st = .idle → trace k s = (es, t) → Event.reset ∉ es →
    (acceptedRequests es).map decodeRequest =
      (takenResponses es ++ t.response.toList).map .ok

/-- A response stays on the port, unchanged, for as long as the host neither takes it nor resets: no
later request affects it (R146, R189). -/
def Obligations.ResponseStaysUntilTakenOrReset : Prop :=
  ∀ (k : Nat) (s t : State) (es : List Event), s.st = .full → trace k s = (es, t) →
    (es = [] → t.response = some s.R) ∧
    (∀ e rest, es = e :: rest → e = .taken s.R ∨ e = .reset)

/-- `DECODE` (R73): the cycles that `SEND` and then `TAKE` drive, from an idle DHD, end with the
request accepted and the response taken being `Decode` of it, and the DHD idle again. -/
def Obligations.SendThenTakeGivesTheDecode : Prop :=
  ∀ (s : State) (q : Request) (cs : List Cycle), s.st = .idle → s.ev = Eval.start →
    scriptCycles (decodeCmd q) s.st = some cs → s.inputs = cs →
    ∃ (k : Nat) (r : Result), decodeRequest q = .ok r ∧
      trace k s =
        ([.accepted q, .taken r], { st := .idle, R := r, inputs := [], ev := Eval.start })

/-- Reset with a response pending (R180 to R182): at an edge with `rst` = 1 the response is lost, no
response is given up and no request is accepted, whatever the host drives on the other inputs. -/
def Obligations.ResetEdgeDropsResponseAndRequest : Prop :=
  ∀ s : State, s.cycle.rst = true →
    s.reqReady = false ∧ s.event = some .reset ∧
    ∃ t, step s = .next t ∧ t.st = .idle ∧ t.R = Result.zero ∧ t.response = none
end

