-- ==== Sys2Proof/Laws/Memory.lean ====
section
/-! SUPPORT. The packet buffer: what a read gives after a write, and that every operation on it keeps
the canonical form. -/

namespace Sys2Proof.Machine

theorem readCells_consCell (a : Nat) (b : Byte) (rest : List Host.Cell) (i : Nat)
    (h : readCells rest a = Config.unlistedByte) :
    readCells (consCell a b rest) i = if i = a then b else readCells rest i := by
  unfold consCell
  split
  · split <;> simp_all
  · by_cases hi : i = a
    · simp [readCells, hi]
    · simp [readCells, hi, Ne.symm hi]

/-- Below its first offset a canonical list holds nothing. -/
theorem readCells_below (cells : List Host.Cell) (lo i : Nat) (h : canonicalFrom lo cells = true)
    (hi : i < lo) : readCells cells i = Config.unlistedByte := by
  induction cells generalizing lo with
  | nil => rfl
  | cons c rest ih =>
    simp only [canonicalFrom, Bool.and_eq_true, decide_eq_true_eq] at h
    obtain ⟨⟨hk, _⟩, hr⟩ := h
    have hne : ¬ c.1 = i := by omega
    simp only [readCells, if_neg hne]
    exact ih (c.1 + 1) hr (by omega)

theorem canonicalFrom_mono (cells : List Host.Cell) (lo lo' : Nat) (hlo : lo' ≤ lo)
    (h : canonicalFrom lo cells = true) : canonicalFrom lo' cells = true := by
  cases cells with
  | nil => rfl
  | cons c rest =>
    simp only [canonicalFrom, Bool.and_eq_true, decide_eq_true_eq] at h ⊢
    exact ⟨⟨by omega, h.1.2⟩, h.2⟩

theorem canonicalFrom_consCell (a lo : Nat) (b : Byte) (rest : List Host.Cell) (ha : lo ≤ a)
    (h : canonicalFrom (a + 1) rest = true) : canonicalFrom lo (consCell a b rest) = true := by
  unfold consCell
  split
  · exact canonicalFrom_mono rest (a + 1) lo (by omega) h
  · simp_all [canonicalFrom]

theorem canonicalFrom_writeCells (cells : List Host.Cell) (lo a : Nat) (b : Byte) (ha : lo ≤ a)
    (h : canonicalFrom lo cells = true) : canonicalFrom lo (writeCells cells a b) = true := by
  induction cells generalizing lo with
  | nil => exact canonicalFrom_consCell a lo b [] ha rfl
  | cons c rest ih =>
    have hc := h
    simp only [canonicalFrom, Bool.and_eq_true, decide_eq_true_eq] at hc
    obtain ⟨⟨hk, hv⟩, hr⟩ := hc
    simp only [writeCells]
    split
    · refine canonicalFrom_consCell a lo b _ ha ?_
      simp [canonicalFrom, hr, hv]
      omega
    · split
      · next _ he => exact canonicalFrom_consCell a lo b rest ha (he ▸ hr)
      · simp only [canonicalFrom, Bool.and_eq_true, decide_eq_true_eq]
        exact ⟨⟨hk, hv⟩, ih (c.1 + 1) (by omega) hr⟩

theorem readCells_writeCells (cells : List Host.Cell) (lo a i : Nat) (b : Byte)
    (h : canonicalFrom lo cells = true) :
    readCells (writeCells cells a b) i = if i = a then b else readCells cells i := by
  induction cells generalizing lo with
  | nil => exact readCells_consCell a b [] i rfl
  | cons c rest ih =>
    have hc := h
    simp only [canonicalFrom, Bool.and_eq_true, decide_eq_true_eq] at hc
    obtain ⟨⟨hk, hv⟩, hr⟩ := hc
    simp only [writeCells]
    split
    · next hlt =>
      refine readCells_consCell a b _ i ?_
      have hne : ¬ c.1 = a := by omega
      simp only [readCells, if_neg hne]
      exact readCells_below rest (c.1 + 1) a hr (by omega)
    · split
      · next _ he =>
        rw [readCells_consCell a b rest i (readCells_below rest (c.1 + 1) a hr (by omega))]
        by_cases hi : i = a
        · simp [hi]
        · have hne : ¬ c.1 = i := by omega
          simp [hi, readCells, hne]
      · next _ he =>
        simp only [readCells, ih (c.1 + 1) hr]
        by_cases hi : c.1 = i
        · have hne : ¬ i = a := by omega
          simp [hi, hne]
        · simp [hi]

theorem canonicalFrom_cellsFrom (bytes : List Byte) (a : Nat) :
    canonicalFrom a (cellsFrom a bytes) = true := by
  induction bytes generalizing a with
  | nil => rfl
  | cons b rest ih => exact canonicalFrom_consCell a a b _ (le_refl a) (ih (a + 1))

theorem readCells_cellsFrom (bytes : List Byte) (a i : Nat) :
    readCells (cellsFrom a bytes) (a + i) = bytes.getD i Config.unlistedByte := by
  induction bytes generalizing a i with
  | nil => rfl
  | cons b rest ih =>
    rw [cellsFrom, readCells_consCell a b _ _
      (readCells_below _ (a + 1) a (canonicalFrom_cellsFrom rest (a + 1)) (by omega))]
    cases i with
    | zero => simp
    | succ i =>
      have hne : ¬ a + (i + 1) = a := by omega
      rw [if_neg hne, show a + (i + 1) = a + 1 + i by omega, ih (a + 1) i]
      rfl

/-- A write gives the byte written at its offset and leaves every other offset alone. -/
theorem Memory.read_write (m : Memory) (a i : Nat) (b : Byte) (h : m.wf = true) :
    (m.write a b).read i = if i = a then b else m.read i :=
  readCells_writeCells m.cells 0 a i b h

/-- A write keeps the canonical form. -/
theorem Memory.write_wf (m : Memory) (a : Nat) (b : Byte) (h : m.wf = true) :
    (m.write a b).wf = true :=
  canonicalFrom_writeCells m.cells 0 a b (Nat.zero_le a) h

/-- A buffer made from bytes holds them. -/
theorem Memory.read_ofBytes (bytes : List Byte) (i : Nat) :
    (Memory.ofBytes bytes).read i = bytes.getD i Config.unlistedByte := by
  have h := readCells_cellsFrom bytes 0 i
  rwa [Nat.zero_add] at h

/-- A buffer made from bytes has the canonical form. -/
theorem Memory.ofBytes_wf (bytes : List Byte) : (Memory.ofBytes bytes).wf = true :=
  canonicalFrom_cellsFrom bytes 0

/-- Nothing is listed after reset, and a cycle in which the host drives nothing lists nothing. -/
theorem State.reset_buffers_wf : ∀ c ∈ State.reset.inputs, c.req.buf.wf = true := by
  simp [State.reset]

theorem Cycle.quiet_wf : Cycle.quiet.req.buf.wf = true := rfl

/-- Two canonical lists that read alike everywhere are equal. -/
theorem canonicalFrom_ext (c d : List Host.Cell) (lo : Nat) (hc : canonicalFrom lo c = true)
    (hd : canonicalFrom lo d = true) (h : ∀ i, readCells c i = readCells d i) : c = d := by
  induction c generalizing lo d with
  | nil =>
    cases d with
    | nil => rfl
    | cons y ys =>
      simp only [canonicalFrom, Bool.and_eq_true, decide_eq_true_eq] at hd
      exact absurd (by simpa [readCells] using (h y.1).symm) hd.1.2
  | cons x xs ih =>
    simp only [canonicalFrom, Bool.and_eq_true, decide_eq_true_eq] at hc
    cases d with
    | nil => exact absurd (by simpa [readCells] using h x.1) hc.1.2
    | cons y ys =>
      simp only [canonicalFrom, Bool.and_eq_true, decide_eq_true_eq] at hd
      have key : x.1 = y.1 := by
        rcases lt_trichotomy x.1 y.1 with hlt | heq | hgt
        · have h1 := h x.1
          have hne : ¬ y.1 = x.1 := by omega
          simp only [readCells, if_neg hne, if_true] at h1
          exact absurd (h1.trans (readCells_below ys (y.1 + 1) x.1 hd.2 (by omega))) hc.1.2
        · exact heq
        · have h1 := h y.1
          have hne : ¬ x.1 = y.1 := by omega
          simp only [readCells, if_neg hne, if_true] at h1
          exact absurd (h1.symm.trans (readCells_below xs (x.1 + 1) y.1 hc.2 (by omega))) hd.1.2
      have hval : x.2 = y.2 := by simpa [readCells, key] using h x.1
      have htail : xs = ys := by
        refine ih ys (x.1 + 1) hc.2 (key ▸ hd.2) fun i => ?_
        by_cases hi : x.1 = i
        · rw [readCells_below xs (x.1 + 1) i hc.2 (by omega),
            readCells_below ys (y.1 + 1) i hd.2 (by omega)]
        · have h1 := h i
          simpa [readCells, hi, key ▸ hi] using h1
      rw [htail, Prod.ext key hval]

/-- Buffers that read alike at every offset are equal data. -/
theorem Memory.ext_of_read (m n : Memory) (hm : m.wf = true) (hn : n.wf = true)
    (h : ∀ i, m.read i = n.read i) : m = n := by
  cases m; cases n
  exact congrArg Memory.mk (canonicalFrom_ext _ _ 0 hm hn h)

end Sys2Proof.Machine
end

