-- ==== Sys2Proof/Laws/State.lean ====
section
/-! SUPPORT. One lemma per field per update of State, Eval and Result, so that no proof unfolds a record
update. -/

namespace Sys2Proof.Machine

variable (s : State) (e : Eval) (r : Result)

@[simp] theorem State.withEval_st : (s.withEval e).st = s.st := rfl
@[simp] theorem State.withEval_R : (s.withEval e).R = s.R := rfl
@[simp] theorem State.withEval_inputs : (s.withEval e).inputs = s.inputs := rfl
@[simp] theorem State.withEval_ev : (s.withEval e).ev = e := rfl
@[simp] theorem State.withEval_cycle : (s.withEval e).cycle = s.cycle := rfl
@[simp] theorem State.withEval_request : (s.withEval e).request = s.request := rfl

@[simp] theorem State.endCycle_st : s.endCycle.st = s.st := rfl
@[simp] theorem State.endCycle_R : s.endCycle.R = s.R := rfl
@[simp] theorem State.endCycle_inputs : s.endCycle.inputs = s.inputs.tail := rfl
@[simp] theorem State.endCycle_ev : s.endCycle.ev = Eval.start := rfl

@[simp] theorem State.reset_st : State.reset.st = .idle := rfl
@[simp] theorem State.reset_R : State.reset.R = Result.zero := rfl
@[simp] theorem State.reset_inputs : State.reset.inputs = [] := rfl
@[simp] theorem State.reset_ev : State.reset.ev = Eval.start := rfl

@[simp] theorem Eval.start_next : Eval.start.next = some .hdr := rfl
@[simp] theorem Eval.start_cur : Eval.start.cur = 0#16 := rfl
@[simp] theorem Eval.start_record : Eval.start.record = Result.zero := rfl

section
variable (status : Status) (cursor : Len) (need : Nat) (q : Request)

@[simp] theorem raiseTruncated_next : (raiseTruncated status cursor need q).next = none := rfl
@[simp] theorem raiseTruncated_cur : (raiseTruncated status cursor need q).cur = cursor := rfl
@[simp] theorem raiseTruncated_status :
    (raiseTruncated status cursor need q).record.status = status := rfl

end

section
variable (c : Len)

@[simp] theorem endDecode_next : (endDecode c r).next = none := rfl
@[simp] theorem endDecode_cur : (endDecode c r).cur = c := rfl
@[simp] theorem endDecode_status : (endDecode c r).record.status = .ok := rfl
@[simp] theorem endDecode_errCursor : (endDecode c r).record.errCursor = r.errCursor := rfl
@[simp] theorem endDecode_errNeed : (endDecode c r).record.errNeed = r.errNeed := rfl
@[simp] theorem endDecode_errHave : (endDecode c r).record.errHave = r.errHave := rfl
@[simp] theorem endDecode_sourcePort : (endDecode c r).record.sourcePort = r.sourcePort := rfl
@[simp] theorem endDecode_destPort : (endDecode c r).record.destPort = r.destPort := rfl
@[simp] theorem endDecode_dataOffset : (endDecode c r).record.dataOffset = r.dataOffset := rfl
@[simp] theorem endDecode_ccval : (endDecode c r).record.ccval = r.ccval := rfl
@[simp] theorem endDecode_cscov : (endDecode c r).record.cscov = r.cscov := rfl
@[simp] theorem endDecode_checksum : (endDecode c r).record.checksum = r.checksum := rfl
@[simp] theorem endDecode_reserved : (endDecode c r).record.reserved = r.reserved := rfl
@[simp] theorem endDecode_type : (endDecode c r).record.type = r.type := rfl
@[simp] theorem endDecode_x : (endDecode c r).record.x = r.x := rfl
@[simp] theorem endDecode_seq48 : (endDecode c r).record.seq48 = r.seq48 := rfl
@[simp] theorem endDecode_seqRaw24 : (endDecode c r).record.seqRaw24 = r.seqRaw24 := rfl
@[simp] theorem endDecode_extKind : (endDecode c r).record.extKind = r.extKind := rfl
@[simp] theorem endDecode_code : (endDecode c r).record.code = r.code := rfl
@[simp] theorem endDecode_ack48 : (endDecode c r).record.ack48 = r.ack48 := rfl
@[simp] theorem endDecode_ackUnsupported : (endDecode c r).record.ackUnsupported = r.ackUnsupported := rfl
@[simp] theorem endDecode_rawOff : (endDecode c r).record.rawOff = r.rawOff := rfl
@[simp] theorem endDecode_rawLen : (endDecode c r).record.rawLen = r.rawLen := rfl
@[simp] theorem endDecode_hdrLen : (endDecode c r).record.hdrLen = c := rfl

end

section
variable (a : U48) (b : BitVec 24)

@[simp] theorem Result.withSequence_status : (r.withSequence a b).status = r.status := rfl
@[simp] theorem Result.withSequence_errCursor : (r.withSequence a b).errCursor = r.errCursor := rfl
@[simp] theorem Result.withSequence_errNeed : (r.withSequence a b).errNeed = r.errNeed := rfl
@[simp] theorem Result.withSequence_errHave : (r.withSequence a b).errHave = r.errHave := rfl
@[simp] theorem Result.withSequence_sourcePort : (r.withSequence a b).sourcePort = r.sourcePort := rfl
@[simp] theorem Result.withSequence_destPort : (r.withSequence a b).destPort = r.destPort := rfl
@[simp] theorem Result.withSequence_dataOffset : (r.withSequence a b).dataOffset = r.dataOffset := rfl
@[simp] theorem Result.withSequence_ccval : (r.withSequence a b).ccval = r.ccval := rfl
@[simp] theorem Result.withSequence_cscov : (r.withSequence a b).cscov = r.cscov := rfl
@[simp] theorem Result.withSequence_checksum : (r.withSequence a b).checksum = r.checksum := rfl
@[simp] theorem Result.withSequence_reserved : (r.withSequence a b).reserved = r.reserved := rfl
@[simp] theorem Result.withSequence_type : (r.withSequence a b).type = r.type := rfl
@[simp] theorem Result.withSequence_x : (r.withSequence a b).x = r.x := rfl
@[simp] theorem Result.withSequence_seq48 : (r.withSequence a b).seq48 = a := rfl
@[simp] theorem Result.withSequence_seqRaw24 : (r.withSequence a b).seqRaw24 = b := rfl
@[simp] theorem Result.withSequence_extKind : (r.withSequence a b).extKind = r.extKind := rfl
@[simp] theorem Result.withSequence_code : (r.withSequence a b).code = r.code := rfl
@[simp] theorem Result.withSequence_ack48 : (r.withSequence a b).ack48 = r.ack48 := rfl
@[simp] theorem Result.withSequence_ackUnsupported : (r.withSequence a b).ackUnsupported = r.ackUnsupported := rfl
@[simp] theorem Result.withSequence_rawOff : (r.withSequence a b).rawOff = r.rawOff := rfl
@[simp] theorem Result.withSequence_rawLen : (r.withSequence a b).rawLen = r.rawLen := rfl
@[simp] theorem Result.withSequence_hdrLen : (r.withSequence a b).hdrLen = r.hdrLen := rfl

end

section
variable (k : ExtKind) (b : BitVec 8) (a : U48) (u : BitVec 1) (o l : Len)

@[simp] theorem Result.withExtension_status : (r.withExtension k b a u o l).status = r.status := rfl
@[simp] theorem Result.withExtension_errCursor : (r.withExtension k b a u o l).errCursor = r.errCursor := rfl
@[simp] theorem Result.withExtension_errNeed : (r.withExtension k b a u o l).errNeed = r.errNeed := rfl
@[simp] theorem Result.withExtension_errHave : (r.withExtension k b a u o l).errHave = r.errHave := rfl
@[simp] theorem Result.withExtension_sourcePort : (r.withExtension k b a u o l).sourcePort = r.sourcePort := rfl
@[simp] theorem Result.withExtension_destPort : (r.withExtension k b a u o l).destPort = r.destPort := rfl
@[simp] theorem Result.withExtension_dataOffset : (r.withExtension k b a u o l).dataOffset = r.dataOffset := rfl
@[simp] theorem Result.withExtension_ccval : (r.withExtension k b a u o l).ccval = r.ccval := rfl
@[simp] theorem Result.withExtension_cscov : (r.withExtension k b a u o l).cscov = r.cscov := rfl
@[simp] theorem Result.withExtension_checksum : (r.withExtension k b a u o l).checksum = r.checksum := rfl
@[simp] theorem Result.withExtension_reserved : (r.withExtension k b a u o l).reserved = r.reserved := rfl
@[simp] theorem Result.withExtension_type : (r.withExtension k b a u o l).type = r.type := rfl
@[simp] theorem Result.withExtension_x : (r.withExtension k b a u o l).x = r.x := rfl
@[simp] theorem Result.withExtension_seq48 : (r.withExtension k b a u o l).seq48 = r.seq48 := rfl
@[simp] theorem Result.withExtension_seqRaw24 : (r.withExtension k b a u o l).seqRaw24 = r.seqRaw24 := rfl
@[simp] theorem Result.withExtension_extKind : (r.withExtension k b a u o l).extKind = k := rfl
@[simp] theorem Result.withExtension_code : (r.withExtension k b a u o l).code = b := rfl
@[simp] theorem Result.withExtension_ack48 : (r.withExtension k b a u o l).ack48 = a := rfl
@[simp] theorem Result.withExtension_ackUnsupported : (r.withExtension k b a u o l).ackUnsupported = u := rfl
@[simp] theorem Result.withExtension_rawOff : (r.withExtension k b a u o l).rawOff = o := rfl
@[simp] theorem Result.withExtension_rawLen : (r.withExtension k b a u o l).rawLen = l := rfl
@[simp] theorem Result.withExtension_hdrLen : (r.withExtension k b a u o l).hdrLen = r.hdrLen := rfl

end

end Sys2Proof.Machine
end

