-- ==== Sys2Proof/Laws/Ops.lean ====
section
/-! SUPPORT. One lemma per shared operation that says once all that it can do; proofs cite these
instead of unfolding the operation. -/

namespace Sys2Proof.Machine

/-- A read that answers lay below `L` and inside the window, and answers the big-endian value. -/
theorem memRead_eq_ok {q : Request} {off n : Nat} {v : BitVec (8 * n)} :
    memRead q off n = .ok v ↔
      off + n ≤ q.len.toNat ∧ off + n ≤ 24 ∧ v = q.bigEndian off n := by
  unfold memRead Config.win
  split
  · simp; omega
  · split
    · simp; omega
    · simp only [Except.ok.injEq]
      constructor
      · intro h; exact ⟨by omega, by omega, h.symm⟩
      · intro h; exact h.2.2.symm

theorem memRead_of_le (q : Request) (off n : Nat) (h : off + n ≤ q.len.toNat) (hw : off + n ≤ 24) :
    memRead q off n = .ok (q.bigEndian off n) :=
  memRead_eq_ok.2 ⟨h, hw, rfl⟩

/-- A read of one more byte: the byte at the highest offset is the least significant. -/
theorem Request.bigEndian_succ_toNat (q : Request) (off n : Nat) :
    (q.bigEndian off (n + 1)).toNat =
      (q.bigEndian off n).toNat * 256 + (q.byteAt (off + n)).toNat := by
  have h : (q.bigEndian off (n + 1)).toNat =
      (q.bigEndian off n).toNat <<< 8 ||| (q.byteAt (off + n)).toNat := BitVec.toNat_append _ _
  rw [h, ← Nat.shiftLeft_add_eq_or_of_lt (q.byteAt (off + n)).isLt, Nat.shiftLeft_eq]

theorem Request.bigEndian_one (q : Request) (off : Nat) : q.bigEndian off 1 = q.byteAt off := by
  apply BitVec.eq_of_toNat_eq
  rw [Request.bigEndian_succ_toNat]
  simp [Request.bigEndian]

/-- A stage's length check either raises, because the buffer is short, or goes on. -/
theorem requireBytes_cases (status : Status) (cursor : Len) (need : Nat) (q : Request)
    (k : Except Fault Eval) :
    (q.len.toNat < cursor.toNat + need ∧
      requireBytes status cursor need q k = .ok (raiseTruncated status cursor need q)) ∨
    (cursor.toNat + need ≤ q.len.toNat ∧ requireBytes status cursor need q k = k) := by
  unfold requireBytes
  split
  · exact .inl ⟨by assumption, rfl⟩
  · exact .inr ⟨by omega, rfl⟩

/-- A stage gives a next state exactly when it gives an evaluation, which is all that changes. -/
theorem runStage_eq_next {f : Request → Eval → Except Fault Eval} {s t : State} :
    runStage f s = .next t ↔ ∃ e, f s.request s.ev = .ok e ∧ t = s.withEval e := by
  unfold runStage
  split
  · next e h =>
    constructor
    · intro hn
      exact ⟨e, h, by simpa using hn.symm⟩
    · rintro ⟨e', he', rfl⟩
      rw [h] at he'
      cases he'
      rfl
  · next h => simp [h]

theorem runStage_of_ok {f : Request → Eval → Except Fault Eval} {s : State} {e : Eval}
    (h : f s.request s.ev = .ok e) : runStage f s = .next (s.withEval e) :=
  runStage_eq_next.2 ⟨e, h, rfl⟩

/-- A stage never refuses. -/
theorem runStage_ne_refused (f : Request → Eval → Except Fault Eval) (s : State) (r : Refusal) :
    runStage f s ≠ .refused r := by
  unfold runStage
  split <;> simp

/-- Going on runs the next stage, or answers the evaluation that has ended. -/
theorem unlessEnded_cases (e : Eval) (k : Except Fault Eval) :
    (e.next = none ∧ unlessEnded e k = .ok e) ∨ (e.next ≠ none ∧ unlessEnded e k = k) := by
  unfold unlessEnded
  split
  · exact .inl ⟨by assumption, rfl⟩
  · exact .inr ⟨by assumption, rfl⟩

/-- What `ACCEPT` can do: with a decoded record, store it and set `st`; it never refuses. -/
theorem execAccept_eq_next {s t : State} :
    execAccept s = .next t ↔
      ∃ r, decodeRequest s.request = .ok r ∧ t = { s.endCycle with st := .full, R := r } := by
  unfold execAccept
  split
  · next r h =>
    constructor
    · intro hn
      exact ⟨r, h, by simpa using hn.symm⟩
    · rintro ⟨r', hr', rfl⟩
      rw [h] at hr'
      cases hr'
      rfl
  · next h => simp [h]

end Sys2Proof.Machine
end

