-- ==== Sys2Proof/Laws/Dispatch.lean ====
section
/-! SUPPORT. What `exec` is for each operation, in terms of the shared operations, and what every
header operation and every port step can do to the state. -/

namespace Sys2Proof.Machine

variable (sel : Selector) (s : State)

@[simp] theorem exec_hdrFixed : exec (.hdrFixed sel) s = runStage hdrFixedStage s := rfl
@[simp] theorem exec_seq48 : exec (.seq48 sel) s = runStage seq48Stage s := rfl
@[simp] theorem exec_seq24 : exec (.seq24 sel) s = runStage seq24Stage s := rfl
@[simp] theorem exec_extRequest : exec (.extRequest sel) s = runStage codeStage s := rfl
@[simp] theorem exec_extResponse : exec (.extResponse sel) s = runStage codeStage s := rfl
@[simp] theorem exec_extAck48 : exec (.extAck48 sel) s = runStage ack48Stage s := rfl
@[simp] theorem exec_extAck24 : exec (.extAck24 sel) s = runStage ack24Stage s := rfl
@[simp] theorem exec_extUnparsedT2 : exec (.extUnparsedT2 sel) s = runStage unparsedStage s := rfl
@[simp] theorem exec_extUnparsedT4 : exec (.extUnparsedT4 sel) s = runStage unparsedStage s := rfl
@[simp] theorem exec_extUnparsedT5 : exec (.extUnparsedT5 sel) s = runStage unparsedStage s := rfl
@[simp] theorem exec_extUnparsedT6 : exec (.extUnparsedT6 sel) s = runStage unparsedStage s := rfl
@[simp] theorem exec_extUnparsedT7 : exec (.extUnparsedT7 sel) s = runStage unparsedStage s := rfl
@[simp] theorem exec_extUnparsedT8 : exec (.extUnparsedT8 sel) s = runStage unparsedStage s := rfl
@[simp] theorem exec_extUnparsedT9 : exec (.extUnparsedT9 sel) s = runStage unparsedStage s := rfl
@[simp] theorem exec_extUnparsedT10 : exec (.extUnparsedT10 sel) s = runStage unparsedStage s := rfl
@[simp] theorem exec_extUnparsedT11 : exec (.extUnparsedT11 sel) s = runStage unparsedStage s := rfl
@[simp] theorem exec_extUnparsedT12 : exec (.extUnparsedT12 sel) s = runStage unparsedStage s := rfl
@[simp] theorem exec_extUnparsedT13 : exec (.extUnparsedT13 sel) s = runStage unparsedStage s := rfl
@[simp] theorem exec_extUnparsedT14 : exec (.extUnparsedT14 sel) s = runStage unparsedStage s := rfl
@[simp] theorem exec_extUnparsedT15 : exec (.extUnparsedT15 sel) s = runStage unparsedStage s := rfl
@[simp] theorem exec_accept : exec .accept s = execAccept s := rfl
@[simp] theorem exec_complete : exec .complete s = .next { s.endCycle with st := .idle } := rfl
@[simp] theorem exec_hold : exec .hold s = .next s.endCycle := rfl
@[simp] theorem exec_reset :
    exec .reset s = .next { s.endCycle with st := .idle, R := Result.zero } := rfl

/-- Every header operation is one stage run on the request on the ports. -/
theorem exec_header_eq_runStage (i : Instr) (h : i.stage ≠ none) :
    ∃ f, ∀ s : State, exec i s = runStage f s := by
  cases i <;> first
    | exact absurd rfl h
    | exact ⟨hdrFixedStage, fun _ => rfl⟩
    | exact ⟨seq48Stage, fun _ => rfl⟩
    | exact ⟨seq24Stage, fun _ => rfl⟩
    | exact ⟨codeStage, fun _ => rfl⟩
    | exact ⟨ack48Stage, fun _ => rfl⟩
    | exact ⟨ack24Stage, fun _ => rfl⟩
    | exact ⟨unparsedStage, fun _ => rfl⟩

/-- An operation of no stage is one of the four port steps. -/
theorem portStep_of_stage_none (i : Instr) (h : i.stage = none) :
    i = .accept ∨ i = .complete ∨ i = .hold ∨ i = .reset := by
  cases i <;> simp_all [Instr.stage]

/-- The decoder answers an operation of the stage it is asked about. -/
theorem decodeAt_stage (stage : Stage) (b : Byte) : (decodeAt stage b).stage = some stage := by
  cases stage
  · rfl
  · simp only [decodeAt, decodeSeq]
    split <;> rfl
  · simp only [decodeAt, decodeExt]
    split <;> first | rfl | (split <;> rfl) | omega

end Sys2Proof.Machine
end

