-- ==== Sys2Proof/Laws/PerInstr.lean ====
section
/-! SUPPORT. A statement made for every operation, one lemma per constructor: a well-formed header
operation's one byte has its row's match and mask, and a port step has no byte. -/

namespace Sys2Proof.Laws

/-- Mask 0x1E keeps the type code of byte 8. -/
theorem toByte_and_typeMask (sel : Selector) : sel.toByte &&& 0x1E#8 = sel.type.setWidth 8 <<< 1 := by
  obtain ⟨r, t, x⟩ := sel
  revert r t x
  decide

/-- Mask 0x1F keeps the type code and the flag. -/
theorem toByte_and_typeFlagMask (sel : Selector) :
    sel.toByte &&& 0x1F#8 = (sel.type ++ sel.x).setWidth 8 := by
  obtain ⟨r, t, x⟩ := sel
  revert r t x
  decide

/-- Mask 0x01 keeps the flag. -/
theorem toByte_and_flagMask (sel : Selector) : sel.toByte &&& 0x01#8 = sel.x.setWidth 8 := by
  obtain ⟨r, t, x⟩ := sel
  revert r t x
  decide

end Sys2Proof.Laws

namespace Sys2Proof.Laws.EncodedBytesFitTheRow

/-- What is said of an operation. -/
def Statement (i : Instr) : Prop :=
  i.wellFormed = true →
    match i.row with
    | some (m, k) => ∃ b, encodeBytes i = [b] ∧ b &&& k = m
    | none        => encodeBytes i = []

theorem hdrFixed (sel : Selector) : Statement (.hdrFixed sel) := fun _ =>
  ⟨sel.toByte, rfl, BitVec.and_zero⟩

theorem seq48 (sel : Selector) : Statement (.seq48 sel) := fun h =>
  ⟨sel.toByte, rfl, by rw [toByte_and_flagMask, eq_of_beq h]; rfl⟩

theorem seq24 (sel : Selector) : Statement (.seq24 sel) := fun h =>
  ⟨sel.toByte, rfl, by rw [toByte_and_flagMask, eq_of_beq h]; rfl⟩

theorem extRequest (sel : Selector) : Statement (.extRequest sel) := fun h =>
  ⟨sel.toByte, rfl, by rw [toByte_and_typeMask, eq_of_beq h]; rfl⟩

theorem extResponse (sel : Selector) : Statement (.extResponse sel) := fun h =>
  ⟨sel.toByte, rfl, by rw [toByte_and_typeMask, eq_of_beq h]; rfl⟩

theorem extAck48 (sel : Selector) : Statement (.extAck48 sel) := fun h => by
  simp only [Instr.wellFormed, Bool.and_eq_true, beq_iff_eq] at h
  exact ⟨sel.toByte, rfl, by rw [toByte_and_typeFlagMask, h.1, h.2]; rfl⟩

theorem extAck24 (sel : Selector) : Statement (.extAck24 sel) := fun h => by
  simp only [Instr.wellFormed, Bool.and_eq_true, beq_iff_eq] at h
  exact ⟨sel.toByte, rfl, by rw [toByte_and_typeFlagMask, h.1, h.2]; rfl⟩

theorem extUnparsedT2 (sel : Selector) : Statement (.extUnparsedT2 sel) := fun h =>
  ⟨sel.toByte, rfl, by rw [toByte_and_typeMask, eq_of_beq h]; rfl⟩

theorem extUnparsedT4 (sel : Selector) : Statement (.extUnparsedT4 sel) := fun h =>
  ⟨sel.toByte, rfl, by rw [toByte_and_typeMask, eq_of_beq h]; rfl⟩

theorem extUnparsedT5 (sel : Selector) : Statement (.extUnparsedT5 sel) := fun h =>
  ⟨sel.toByte, rfl, by rw [toByte_and_typeMask, eq_of_beq h]; rfl⟩

theorem extUnparsedT6 (sel : Selector) : Statement (.extUnparsedT6 sel) := fun h =>
  ⟨sel.toByte, rfl, by rw [toByte_and_typeMask, eq_of_beq h]; rfl⟩

theorem extUnparsedT7 (sel : Selector) : Statement (.extUnparsedT7 sel) := fun h =>
  ⟨sel.toByte, rfl, by rw [toByte_and_typeMask, eq_of_beq h]; rfl⟩

theorem extUnparsedT8 (sel : Selector) : Statement (.extUnparsedT8 sel) := fun h =>
  ⟨sel.toByte, rfl, by rw [toByte_and_typeMask, eq_of_beq h]; rfl⟩

theorem extUnparsedT9 (sel : Selector) : Statement (.extUnparsedT9 sel) := fun h =>
  ⟨sel.toByte, rfl, by rw [toByte_and_typeMask, eq_of_beq h]; rfl⟩

theorem extUnparsedT10 (sel : Selector) : Statement (.extUnparsedT10 sel) := fun h =>
  ⟨sel.toByte, rfl, by rw [toByte_and_typeMask, eq_of_beq h]; rfl⟩

theorem extUnparsedT11 (sel : Selector) : Statement (.extUnparsedT11 sel) := fun h =>
  ⟨sel.toByte, rfl, by rw [toByte_and_typeMask, eq_of_beq h]; rfl⟩

theorem extUnparsedT12 (sel : Selector) : Statement (.extUnparsedT12 sel) := fun h =>
  ⟨sel.toByte, rfl, by rw [toByte_and_typeMask, eq_of_beq h]; rfl⟩

theorem extUnparsedT13 (sel : Selector) : Statement (.extUnparsedT13 sel) := fun h =>
  ⟨sel.toByte, rfl, by rw [toByte_and_typeMask, eq_of_beq h]; rfl⟩

theorem extUnparsedT14 (sel : Selector) : Statement (.extUnparsedT14 sel) := fun h =>
  ⟨sel.toByte, rfl, by rw [toByte_and_typeMask, eq_of_beq h]; rfl⟩

theorem extUnparsedT15 (sel : Selector) : Statement (.extUnparsedT15 sel) := fun h =>
  ⟨sel.toByte, rfl, by rw [toByte_and_typeMask, eq_of_beq h]; rfl⟩

theorem accept : Statement .accept := fun _ => rfl

theorem complete : Statement .complete := fun _ => rfl

theorem hold : Statement .hold := fun _ => rfl

theorem reset : Statement .reset := fun _ => rfl

end Sys2Proof.Laws.EncodedBytesFitTheRow
end

