-- ==== Sys2Proof/Laws/Run.lean ====
section
/-! SUPPORT. One step of the host's runs and of traces. -/

namespace Sys2Proof.Machine

@[simp] theorem run_zero (s : State) : Host.Core.run Sys2Proof.core 0 s = .next s := rfl

/-- A run whose first step gives a next state goes on from there. -/
theorem run_succ_of_next (n : Nat) {s t : State} (h : step s = .next t) :
    Host.Core.run Sys2Proof.core (n + 1) s = Host.Core.run Sys2Proof.core n t := by
  have hs : Sys2Proof.core.step s = .next t := h
  simp only [Host.Core.run, hs]

/-- A run whose first step faults stops there. -/
theorem run_succ_of_fault (n : Nat) {s : State} {f : Fault} (h : step s = .fault f) :
    Host.Core.run Sys2Proof.core (n + 1) s = .fault f := by
  have hs : Sys2Proof.core.step s = .fault f := h
  simp only [Host.Core.run, hs]

/-- A run whose first step is refused stops there. -/
theorem run_succ_of_refused (n : Nat) {s : State} {r : Refusal} (h : step s = .refused r) :
    Host.Core.run Sys2Proof.core (n + 1) s = .refused r := by
  have hs : Sys2Proof.core.step s = .refused r := h
  simp only [Host.Core.run, hs]

@[simp] theorem trace_zero (s : State) : trace 0 s = ([], s) := rfl

theorem trace_succ_of_next (k : Nat) {s t : State} (h : step s = .next t) :
    trace (k + 1) s = (s.event.toList ++ (trace k t).1, (trace k t).2) := by
  simp only [trace, h]

theorem acceptedRequests_append (a b : List Event) :
    acceptedRequests (a ++ b) = acceptedRequests a ++ acceptedRequests b := by
  induction a with
  | nil => rfl
  | cons x xs ih => cases x <;> simp [acceptedRequests, ih]

theorem takenResponses_append (a b : List Event) :
    takenResponses (a ++ b) = takenResponses a ++ takenResponses b := by
  induction a with
  | nil => rfl
  | cons x xs ih => cases x <;> simp [takenResponses, ih]

/-- A step whose operation is a header operation passes nothing at a port. -/
theorem event_of_header (s : State) (h : s.nextInstr.stage ≠ none) : s.event = none := by
  unfold State.event
  split <;> simp_all [Instr.stage]

end Sys2Proof.Machine
end

