-- ==== Sys2Proof/Tests/Slice0.lean ====
section
/-! SUPPORT. The model's own tests. The words are written out from the patterns of spec/30_encoding.md
rule R68, the packets and their results from spec/95_test_vectors.md (the vector is named), the port
steps from its section 2.8. Then, for every statement with hypotheses, a state and operands that meet
them. -/

namespace Sys2Proof.Tests

open Sys2Proof.Machine

/-! ## Ill-formed terms, one for each check of `wellFormed` -/

/-- Sub-fields that fit no row but `HDR_FIXED` and the one asked about. -/
def fields (reserved : BitVec 3) (type : BitVec 4) (x : BitVec 1) : Selector :=
  { reserved := reserved, type := type, x := x }

theorem test_wellFormed_refuses_wrong_flag :
    (Instr.seq48 (fields 0 0 0)).wellFormed = false ∧ (Instr.seq24 (fields 0 0 1)).wellFormed = false := by
  decide

theorem test_wellFormed_refuses_wrong_ack :
    (Instr.extAck48 (fields 0 3 0)).wellFormed = false ∧
    (Instr.extAck48 (fields 0 2 1)).wellFormed = false ∧
    (Instr.extAck24 (fields 0 3 1)).wellFormed = false ∧
    (Instr.extAck24 (fields 0 7 0)).wellFormed = false := by
  decide

theorem test_wellFormed_refuses_wrong_type :
    (Instr.extRequest (fields 0 1 0)).wellFormed = false ∧
    (Instr.extResponse (fields 0 0 0)).wellFormed = false ∧
    (Instr.extUnparsedT2 (fields 0 3 1)).wellFormed = false ∧
    (Instr.extUnparsedT4 (fields 0 0 1)).wellFormed = false ∧
    (Instr.extUnparsedT5 (fields 0 4 1)).wellFormed = false ∧
    (Instr.extUnparsedT6 (fields 0 5 1)).wellFormed = false ∧
    (Instr.extUnparsedT7 (fields 0 6 1)).wellFormed = false ∧
    (Instr.extUnparsedT8 (fields 0 7 1)).wellFormed = false ∧
    (Instr.extUnparsedT9 (fields 0 8 1)).wellFormed = false ∧
    (Instr.extUnparsedT10 (fields 0 9 1)).wellFormed = false ∧
    (Instr.extUnparsedT11 (fields 0 10 1)).wellFormed = false ∧
    (Instr.extUnparsedT12 (fields 0 11 1)).wellFormed = false ∧
    (Instr.extUnparsedT13 (fields 0 12 1)).wellFormed = false ∧
    (Instr.extUnparsedT14 (fields 0 13 1)).wellFormed = false ∧
    (Instr.extUnparsedT15 (fields 0 14 1)).wellFormed = false := by
  decide

/-! ## Every constructor's word, bit by bit -/

theorem test_decode_hdrFixed : decode (.header .hdr 0b01000111#8) = .hdrFixed (fields 2 3 1) := by decide

theorem test_decode_seq48 : decode (.header .seq 0b10100101#8) = .seq48 (fields 5 2 1) := by decide

theorem test_decode_seq24 : decode (.header .seq 0b11100110#8) = .seq24 (fields 7 3 0) := by decide

theorem test_decode_extRequest : decode (.header .ext 0b11100001#8) = .extRequest (fields 7 0 1) := by decide

theorem test_decode_extResponse : decode (.header .ext 0b00100010#8) = .extResponse (fields 1 1 0) := by decide

theorem test_decode_extAck48 : decode (.header .ext 0b11100111#8) = .extAck48 (fields 7 3 1) := by decide

theorem test_decode_extAck24 : decode (.header .ext 0b11100110#8) = .extAck24 (fields 7 3 0) := by decide

theorem test_decode_extUnparsedT2 :
    decode (.header .ext 0b01000100#8) = .extUnparsedT2 (fields 2 2 0) := by decide

theorem test_decode_extUnparsedT4 :
    decode (.header .ext 0b10001000#8) = .extUnparsedT4 (fields 4 4 0) := by decide

theorem test_decode_extUnparsedT5 :
    decode (.header .ext 0b10101011#8) = .extUnparsedT5 (fields 5 5 1) := by decide

theorem test_decode_extUnparsedT6 :
    decode (.header .ext 0b11001100#8) = .extUnparsedT6 (fields 6 6 0) := by decide

theorem test_decode_extUnparsedT7 :
    decode (.header .ext 0b11101111#8) = .extUnparsedT7 (fields 7 7 1) := by decide

theorem test_decode_extUnparsedT8 :
    decode (.header .ext 0b00010000#8) = .extUnparsedT8 (fields 0 8 0) := by decide

theorem test_decode_extUnparsedT9 :
    decode (.header .ext 0b00110011#8) = .extUnparsedT9 (fields 1 9 1) := by decide

theorem test_decode_extUnparsedT10 :
    decode (.header .ext 0b01010100#8) = .extUnparsedT10 (fields 2 10 0) := by decide

theorem test_decode_extUnparsedT11 :
    decode (.header .ext 0b01110111#8) = .extUnparsedT11 (fields 3 11 1) := by decide

theorem test_decode_extUnparsedT12 :
    decode (.header .ext 0b10011000#8) = .extUnparsedT12 (fields 4 12 0) := by decide

theorem test_decode_extUnparsedT13 :
    decode (.header .ext 0b10111011#8) = .extUnparsedT13 (fields 5 13 1) := by decide

theorem test_decode_extUnparsedT14 :
    decode (.header .ext 0b11011100#8) = .extUnparsedT14 (fields 6 14 0) := by decide

theorem test_decode_extUnparsedT15 :
    decode (.header .ext 0b11111111#8) = .extUnparsedT15 (fields 7 15 1) := by decide

theorem test_decode_accept :
    decode (.edge { rst := false, st := .idle, reqValid := true, rspReady := true }) = .accept := by decide

theorem test_decode_complete :
    decode (.edge { rst := false, st := .full, reqValid := true, rspReady := true }) = .complete := by decide

theorem test_decode_hold :
    decode (.edge { rst := false, st := .full, reqValid := true, rspReady := false }) = .hold := by decide

theorem test_decode_reset :
    decode (.edge { rst := true, st := .idle, reqValid := true, rspReady := true }) = .reset := by decide

theorem test_decode_refuses_no_byte : decodeBytes .seq [] = .error .noSelectorByte := rfl

theorem test_decodeTable_refuses_other_widths :
    decodeTable 16 0x0007 = .error .notOneByte ∧ decodeTableWord 8 0x07 = some (.extAck48 (fields 0 3 1)) := by
  decide

/-! ## Packets (section 1 and section 2 of 95_test_vectors.md) -/

/-- The common bytes 0 to 7 of section 2. -/
def commonBytes : List Byte := [0x00#8, 0x01#8, 0x00#8, 0x02#8, 0x05#8, 0xa7#8, 0x12#8, 0x34#8]

/-- A packet of section 2: the common bytes, then the rest. -/
def packet (rest : List Byte) : Request := Request.ofBytes (commonBytes ++ rest)

/-- The same with its length given apart. -/
def packetOf (len : Nat) (rest : List Byte) : Request := Request.ofBytesLen len (commonBytes ++ rest)

/-- The six fields that every successful response of section 2 holds. -/
def commonFields : Result :=
  { Result.zero with
    sourcePort := 1, destPort := 2, dataOffset := 5, ccval := 10, cscov := 7, checksum := 0x1234 }

/-- The scenario 3 packet. -/
def scenario3 : Request :=
  Request.ofBytes
    [0x14#8, 0x51#8, 0x90#8, 0x39#8, 0x06#8, 0x00#8, 0x67#8, 0xf4#8, 0x07#8, 0x00#8, 0xcd#8, 0xe3#8,
     0xea#8, 0xdf#8, 0x6d#8, 0xcf#8, 0x00#8, 0x00#8, 0xa9#8, 0x1e#8, 0x8a#8, 0xb5#8, 0x40#8, 0x7a#8]

/-- Its record. -/
def scenario3Record : Result :=
  { Result.zero with
    sourcePort := 5201, destPort := 36921, dataOffset := 6, checksum := 0x67F4, type := 3, x := 1,
    seq48 := 226378781781455, extKind := .ack, ack48 := 185948641247354, hdrLen := 24 }

theorem test_decode_scenario1 :
    decodeRequest (Request.ofBytes
      [0xd9#8, 0x91#8, 0x14#8, 0x51#8, 0x12#8, 0x00#8, 0xe8#8, 0xfb#8, 0x01#8, 0x00#8, 0x5f#8, 0x34#8,
       0x7b#8, 0x1c#8, 0x28#8, 0x2c#8, 0x00#8, 0x00#8, 0x00#8, 0x00#8, 0x00#8, 0x00#8, 0x2e#8, 0x0b#8,
       0x01#8]) =
      .ok { Result.zero with
        sourcePort := 55697, destPort := 5201, dataOffset := 18, checksum := 0xE8FB, x := 1,
        seq48 := 0x5F347B1C282C, extKind := .reqresp, hdrLen := 18 } := by
  decide

theorem test_decode_scenario3 : decodeRequest scenario3 = .ok scenario3Record := by decide

theorem test_decode_T7 :
    decodeRequest (packet [0x01#8, 0xff#8, 0x11#8, 0x22#8, 0x33#8, 0x44#8, 0x55#8]) =
      .ok { Result.zero with status := .truncSeq, errCursor := 9, errNeed := 7, errHave := 6 } := by
  decide

theorem test_decode_T10 :
    decodeRequest (packet
      [0x03#8, 0xff#8, 0x11#8, 0x22#8, 0x33#8, 0x44#8, 0x55#8, 0x66#8, 0x77#8, 0x88#8]) =
      .ok { commonFields with
        type := 1, x := 1, seq48 := 0x112233445566, extKind := .reqresp, code := 136, hdrLen := 18 } := by
  decide

theorem test_decode_T14 :
    decodeRequest (packet [0x06#8, 0xab#8, 0xcd#8, 0xef#8]) =
      .ok { commonFields with
        type := 3, seqRaw24 := 0xABCDEF, extKind := .ack, ackUnsupported := 1, hdrLen := 12 } := by
  decide

theorem test_decode_T17 :
    decodeRequest (packetOf 40
      [0x05#8, 0x00#8, 0x00#8, 0x00#8, 0x00#8, 0x00#8, 0x00#8, 0x01#8, 0xaa#8, 0xbb#8]) =
      .ok { commonFields with
        type := 2, x := 1, seq48 := 1, extKind := .unparsed, rawOff := 16, rawLen := 24, hdrLen := 40 } := by
  decide

theorem test_decode_T19 :
    decodeRequest (packetOf 65535 [0x08#8, 0x00#8, 0x00#8, 0x01#8]) =
      .ok { commonFields with
        type := 4, seqRaw24 := 1, extKind := .unparsed, rawOff := 12, rawLen := 65523, hdrLen := 65535 } := by
  decide

theorem test_decode_T20 :
    decodeRequest (packet [0x07#8, 0x00#8, 0x00#8, 0x00#8, 0x00#8]) =
      .ok { Result.zero with status := .truncSeq, errCursor := 9, errNeed := 7, errHave := 4 } := by
  decide

theorem test_decode_T21 :
    decodeRequest (packet [0xff#8, 0x00#8, 0x00#8, 0x00#8, 0x00#8, 0x00#8, 0x00#8, 0x00#8]) =
      .ok { commonFields with
        reserved := 7, type := 15, x := 1, extKind := .unparsed, rawOff := 16, hdrLen := 16 } := by
  decide

theorem test_decode_T22 :
    decodeRequest (packet
      [0xe7#8, 0x5a#8, 0x00#8, 0x00#8, 0x00#8, 0x00#8, 0x00#8, 0x2a#8, 0x11#8, 0x22#8, 0x00#8, 0x00#8,
       0x00#8, 0x00#8, 0x00#8, 0x01#8]) =
      .ok { commonFields with
        reserved := 7, type := 3, x := 1, seq48 := 0x2A, extKind := .ack, ack48 := 1, hdrLen := 24 } := by
  decide

theorem test_decode_T24 :
    decodeRequest (packet [0xe0#8, 0x12#8, 0x34#8, 0x56#8, 0x77#8, 0x88#8]) =
      .ok { commonFields with
        reserved := 7, seqRaw24 := 0x123456, extKind := .reqresp, code := 136, hdrLen := 14 } := by
  decide

/-! ## Port steps (section 2.8) -/

/-- A state at the beginning of a cycle. -/
def portState (st : Handshake) (r : Result) (c : Cycle) : State :=
  { st := st, R := r, inputs := [c], ev := Eval.start }

/-- A cycle with the given inputs and scenario 3 on the request port. -/
def portCycle (rst reqValid rspReady : Bool) : Cycle :=
  { rst := rst, reqValid := reqValid, req := scenario3, rspReady := rspReady }

/-- H3: `ACCEPT` from (`IDLE`, 0). -/
theorem test_accept_H3 :
    exec .accept (portState .idle Result.zero (portCycle false true false)) =
      .next { st := .full, R := scenario3Record, inputs := [], ev := Eval.start } := by
  rw [exec_accept]
  exact execAccept_eq_next.2 ⟨scenario3Record, test_decode_scenario3, rfl⟩

/-- H6: `COMPLETE`; the request presented is not accepted. -/
theorem test_complete_H6 :
    step (portState .full scenario3Record (portCycle false true true)) =
      .next { st := .idle, R := scenario3Record, inputs := [], ev := Eval.start } := rfl

/-- H5: `HOLD` while the response is not taken. -/
theorem test_hold_H5 :
    step (portState .full scenario3Record (portCycle false true false)) =
      .next { st := .full, R := scenario3Record, inputs := [], ev := Eval.start } := rfl

/-- H2 and H7: a reset edge wins over `COMPLETE` and over `ACCEPT`. -/
theorem test_reset_H2_H7 :
    step (portState .full scenario3Record (portCycle true false true)) = .next State.reset ∧
    step (portState .idle Result.zero (portCycle true true false)) = .next State.reset := ⟨rfl, rfl⟩

/-- The right to the first step after reset: a byte 8 placed there runs, and its step gives a state. -/
theorem test_placed_word_runs :
    (State.reset.withFetchWord 8 0x02).nextInstr = .extResponse (fields 0 1 0) ∧
    (step (State.reset.withFetchWord 8 0x02) matches .next _) = true := by decide

/-! ## States and operands that meet the hypotheses of the statements -/

/-- A state in an accepting cycle, at a stage and a cursor. -/
def stageState (next : Option Stage) (cur : Len) (q : Request) : State :=
  { st := .idle, R := Result.zero
    inputs := [{ rst := false, reqValid := true, req := q, rspReady := false }]
    ev := { next := next, cur := cur, record := Result.zero } }

theorem test_witness_DecodeOfEncodeIsTheOperation :
    (Instr.extAck24 (fields 7 3 0)).wellFormed = true ∧ Instr.hold.wellFormed = true := by decide

theorem test_witness_EveryByteSelectsOneRowPerStage :
    (Instr.extAck48 (fields 0 3 1)).stage = some .ext ∧
    (Instr.extAck48 (fields 0 3 1)).rowMatches 0xE7#8 = true := by decide

/-- A state between two requests, its response taken: not the reset state. -/
def takenState : State := portState .idle scenario3Record (portCycle false true false)

/-- A state with a response on the port. -/
def respondingState : State := portState .full scenario3Record (portCycle false true true)

theorem scenario3Record_coherent : scenario3Record.Coherent := by
  unfold Result.Coherent
  decide

theorem test_witness_Inv_of_respondingState : respondingState.Inv where
  buffers := by decide
  coherent := scenario3Record_coherent
  response := fun _ => by unfold Result.IsResponse; decide
  honest := ⟨rfl, rfl⟩
  fresh := fun _ => rfl

theorem test_witness_Inv_of_takenState : takenState.Inv where
  buffers := by decide
  coherent := scenario3Record_coherent
  response := fun h => by cases h
  honest := ⟨rfl, rfl⟩
  fresh := fun _ => rfl

theorem test_witness_PlacedTableWordRunsNext : takenState.Inv ∧ 0xFF < 256 :=
  ⟨test_witness_Inv_of_takenState, by decide⟩

theorem test_witness_RequestLanesCarryTheBytes :
    0 < 24 ∧ 23 < 24 ∧ scenario3.reqBytes.extractLsb' 0 8 = 0x14#8 ∧
    scenario3.reqBytes.extractLsb' 184 8 = 0x7a#8 := by decide

theorem test_witness_MemReadReadsOrStops :
    (18 + 6 ≤ scenario3.length ∧ 18 + 6 ≤ 24) ∧ scenario3.length < 19 + 6 ∧
    (22 + 3 ≤ (packetOf 25 []).length ∧ 24 < 22 + 3) := by decide

theorem test_witness_TwoPartReadIsOneSixByteRead : 18 + 6 ≤ scenario3.length ∧ 18 + 6 ≤ 24 := by decide

theorem test_witness_HdrFixedUnpacksTheFixedFields :
    12 ≤ (stageState (some .hdr) 0 (packetOf 12 [])).request.length ∧
    (stageState (some .hdr) 0 (packetOf 11 [])).request.length < 12 := by decide

theorem test_witness_SeqFortyEightReadsBytesTenToFifteen :
    ((stageState (some .seq) 9 (packetOf 16 [])).ev.cur = 9#16 ∧
      16 ≤ (stageState (some .seq) 9 (packetOf 16 [])).request.length) ∧
    ∀ n ∈ [9, 12, 15], (stageState (some .seq) 9 (packetOf n [])).ev.cur = 9#16 ∧
      9 ≤ (stageState (some .seq) 9 (packetOf n [])).request.length ∧
      (stageState (some .seq) 9 (packetOf n [])).request.length < 16 := by decide

theorem test_witness_SeqTwentyFourPassesRawBytes :
    ((stageState (some .seq) 9 (packetOf 12 [])).ev.cur = 9#16 ∧
      12 ≤ (stageState (some .seq) 9 (packetOf 12 [])).request.length) ∧
    ∀ n ∈ [9, 11], (stageState (some .seq) 9 (packetOf n [])).ev.cur = 9#16 ∧
      9 ≤ (stageState (some .seq) 9 (packetOf n [])).request.length ∧
      (stageState (some .seq) 9 (packetOf n [])).request.length < 12 := by decide

theorem test_witness_RequestAndResponseReadTheCode :
    (∀ c ∈ [12, 16], (stageState (some .ext) (BitVec.ofNat 16 c) (packetOf (c + 2) [])).ev.cur =
        BitVec.ofNat 16 c ∧
      c + 2 ≤ (stageState (some .ext) (BitVec.ofNat 16 c) (packetOf (c + 2) [])).request.length) ∧
    ∀ c ∈ [12, 16], ∀ n ∈ [c, c + 1],
      (stageState (some .ext) (BitVec.ofNat 16 c) (packetOf n [])).ev.cur = BitVec.ofNat 16 c ∧
      c ≤ (stageState (some .ext) (BitVec.ofNat 16 c) (packetOf n [])).request.length ∧
      (stageState (some .ext) (BitVec.ofNat 16 c) (packetOf n [])).request.length < c + 2 := by decide

theorem test_witness_AckFortyEightReadsBytesEighteenToTwentyThree :
    ((stageState (some .ext) 16 scenario3).ev.cur = 16#16 ∧
      24 ≤ (stageState (some .ext) 16 scenario3).request.length) ∧
    ∀ n ∈ [16, 23], (stageState (some .ext) 16 (packetOf n [])).ev.cur = 16#16 ∧
      16 ≤ (stageState (some .ext) 16 (packetOf n [])).request.length ∧
      (stageState (some .ext) 16 (packetOf n [])).request.length < 24 := by decide

theorem test_witness_UnparsedArmsNameTheRemainder :
    (4, Instr.extUnparsedT4 (fields 4 4 0)) ∈ unparsedArms (Selector.ofByte 0b10001000#8) ∧
    (2, Instr.extUnparsedT2 (fields 0 2 1)) ∈ unparsedArms (fields 0 2 1) ∧
    (15, Instr.extUnparsedT15 (fields 0 15 1)) ∈ unparsedArms (fields 0 15 1) := by decide

theorem test_witness_HeaderOperationsLeaveRegistersAndBuffer :
    (Instr.extAck24 (fields 0 3 0)).stage ≠ none ∧
    ∃ t, exec (.extAck24 (fields 0 3 0)) (stageState (some .ext) 12 (packetOf 12 [])) = .next t :=
  ⟨by decide, _, rfl⟩

/-- A state in an accepting cycle whose evaluation has ended. -/
def endedState : State := stageState none 24 scenario3

theorem test_witness_AcceptStoresTheDecodedRequest :
    endedState.cycle.rst = false ∧ endedState.st = .idle ∧ endedState.cycle.reqValid = true ∧
    endedState.ev.next = none := by decide

theorem test_witness_CompleteGivesUpTheResponse :
    respondingState.cycle.rst = false ∧ respondingState.st = .full ∧
    respondingState.cycle.rspReady = true := by decide

/-- Both ways to hold: idle with no request, and a response not taken. -/
theorem test_witness_HoldKeepsTheRegisters :
    (State.reset.cycle.rst = false ∧ ¬ (State.reset.st = .idle ∧ State.reset.cycle.reqValid = true) ∧
      ¬ (State.reset.st = .full ∧ State.reset.cycle.rspReady = true)) ∧
    ((portState .full scenario3Record (portCycle false true false)).st = .full ∧
      (portState .full scenario3Record (portCycle false true false)).cycle.rst = false ∧
      (portState .full scenario3Record (portCycle false true false)).cycle.rspReady = false) := by decide

theorem test_witness_ResetClearsTheRegisters :
    (portState .full scenario3Record (portCycle true true true)).cycle.rst = true := rfl

theorem test_witness_StepRunsTheDecodedOperation :
    takenState.cycle.rst = false ∧ takenState.st = .idle ∧ takenState.cycle.reqValid = true ∧
    takenState.ev.next = some .hdr ∧
    decodeBytes .hdr [takenState.request.byteAt 8] = .ok (.hdrFixed (fields 0 3 1), []) := by decide

theorem test_witness_OnlyPortStepsWriteTheRegisters :
    ∃ t, step (portState .full scenario3Record (portCycle true true true)) = .next t ∧
      t.st ≠ (portState .full scenario3Record (portCycle true true true)).st ∧
      t.R ≠ (portState .full scenario3Record (portCycle true true true)).R :=
  ⟨State.reset, rfl, by decide, by decide⟩

theorem test_witness_NoStepWritesThePacketBuffer : ∃ t, step respondingState = .next t := ⟨_, rfl⟩

theorem test_witness_HandshakeOutputs :
    respondingState.rspValid = true ∧ takenState.rspValid = false := by decide

/-- A Request (x = 0) of a given length. -/
def shortRequest (len : Nat) : Request := packetOf len [0x00#8]

/-- A Response (x = 1) of a given length. -/
def longResponse (len : Nat) : Request := packetOf len [0x03#8]

/-- An Ack (x = 1) of a given length. -/
def longAck (len : Nat) : Request := packetOf len [0x07#8]

theorem test_witness_DecodeErrorsAreTheTaxonomy :
    (∀ n ∈ [0, 11], (longAck n).length < 12) ∧
    (∀ n ∈ [12, 15], 12 ≤ (longAck n).length ∧ (longAck n).xFlag = 1#1 ∧ (longAck n).length < 16) ∧
    (∀ n ∈ [12, 13], (shortRequest n).extCursor ≤ (shortRequest n).length ∧
      (shortRequest n).typeCode = 0#4 ∧ (shortRequest n).length < (shortRequest n).extCursor + 2) ∧
    (∀ n ∈ [16, 17], (longResponse n).extCursor ≤ (longResponse n).length ∧
      (longResponse n).typeCode = 1#4 ∧ (longResponse n).length < (longResponse n).extCursor + 2) ∧
    (∀ n ∈ [16, 23], 16 ≤ (longAck n).length ∧ (longAck n).xFlag = 1#1 ∧ (longAck n).typeCode = 3#4 ∧
      (longAck n).length < 24) ∧
    ((longAck 24).extCursor ≤ (longAck 24).length ∧
      ¬((longAck 24).typeCode = 0#4 ∨ (longAck 24).typeCode = 1#4) ∧
      24 ≤ (longAck 24).length) := by decide

theorem test_witness_DecodeOfRequestOrResponse :
    ((shortRequest 14).typeCode = 0#4 ∧ (shortRequest 14).extCursor + 2 ≤ (shortRequest 14).length) ∧
    ((longResponse 18).typeCode = 1#4 ∧ (longResponse 18).extCursor + 2 ≤ (longResponse 18).length) := by
  decide

theorem test_witness_DecodeOfExtendedAck :
    (longAck 24).typeCode = 3#4 ∧ (longAck 24).xFlag = 1#1 ∧ 24 ≤ (longAck 24).length := by decide

theorem test_witness_DecodeOfShortAck :
    (packetOf 12 [0x06#8]).typeCode = 3#4 ∧ (packetOf 12 [0x06#8]).xFlag = 0#1 ∧
    12 ≤ (packetOf 12 [0x06#8]).length := by decide

theorem test_witness_DecodeOfUnparsedTypes :
    (packetOf 16 [0x05#8]).typeCode ≠ 0#4 ∧ (packetOf 16 [0x05#8]).typeCode ≠ 1#4 ∧
    (packetOf 16 [0x05#8]).typeCode ≠ 3#4 ∧
    (packetOf 16 [0x05#8]).extCursor ≤ (packetOf 16 [0x05#8]).length := by decide

/-- One successful record of each of the three variants, for `HeaderLengthOnSuccess`,
`ExtensionKindFollowsTheType` and `DescriptorNamesTheRestOfTheBuffer`. -/
theorem test_witness_HeaderLengthOnSuccess :
    (∃ r, decodeRequest (shortRequest 14) = .ok r ∧ r.status = .ok ∧ r.type = 0#4) ∧
    (∃ r, decodeRequest (longAck 24) = .ok r ∧ r.status = .ok ∧ r.type = 3#4) ∧
    (∃ r, decodeRequest (packetOf 16 [0x05#8]) = .ok r ∧ r.status = .ok ∧ r.type = 2#4 ∧
      r.extKind = .unparsed) :=
  ⟨⟨_, rfl, rfl, rfl⟩, ⟨_, rfl, rfl, rfl⟩, ⟨_, rfl, rfl, rfl, rfl⟩⟩

theorem test_witness_DiagnosticsTellStageAndShortfall :
    (∃ r, decodeRequest (longAck 11) = .ok r ∧ r.status = .truncHdr) ∧
    (∃ r, decodeRequest (longAck 15) = .ok r ∧ r.status = .truncSeq) ∧
    (∃ r, decodeRequest (longAck 23) = .ok r ∧ r.status = .truncExt) ∧
    (∃ r, decodeRequest (shortRequest 12) = .ok r ∧ r.status = .truncExt) ∧
    (∃ r, decodeRequest (longResponse 17) = .ok r ∧ r.status = .truncExt) :=
  ⟨⟨_, rfl, rfl⟩, ⟨_, rfl, rfl⟩, ⟨_, rfl, rfl⟩, ⟨_, rfl, rfl⟩, ⟨_, rfl, rfl⟩⟩

theorem test_witness_ExtensionKindFollowsTheType :
    ∃ r, decodeRequest (longAck 24) = .ok r ∧ r.status = .ok := ⟨_, rfl, rfl⟩

theorem test_witness_DescriptorNamesTheRestOfTheBuffer :
    ∃ r, decodeRequest (packetOf 40 [0x05#8]) = .ok r ∧ r.extKind = .unparsed := ⟨_, rfl, rfl⟩

theorem test_witness_AcceptedRecordDependsOnThePresentedBytesOnly :
    (stageState none 0 (packetOf 9 [0x07#8, 0x11#8])).request.len =
      (stageState none 0 (packetOf 9 [0x07#8, 0x22#8])).request.len ∧
    (∀ i, i < (stageState none 0 (packetOf 9 [0x07#8, 0x11#8])).request.length → i < 24 →
      (stageState none 0 (packetOf 9 [0x07#8, 0x11#8])).request.byteAt i =
        (stageState none 0 (packetOf 9 [0x07#8, 0x22#8])).request.byteAt i) ∧
    (∃ t, exec .accept (stageState none 0 (packetOf 9 [0x07#8, 0x11#8])) = .next t) ∧
    (∃ t, exec .accept (stageState none 0 (packetOf 9 [0x07#8, 0x22#8])) = .next t) :=
  ⟨rfl, by decide, ⟨_, rfl⟩, ⟨_, rfl⟩⟩

/-- Two packets that differ in their spacer only. -/
theorem test_witness_OnlyTheListedOffsetsAreRead :
    (packetOf 24 [0x07#8, 0x11#8]).len = (packetOf 24 [0x07#8, 0x5a#8]).len ∧
    (∀ i, i < 9 → (packetOf 24 [0x07#8, 0x11#8]).byteAt i = (packetOf 24 [0x07#8, 0x5a#8]).byteAt i) ∧
    ¬ (packetOf 24 [0x07#8, 0x11#8]).xFlag = 0#1 ∧
    (∀ i, i < 24 → 10 ≤ i →
      (packetOf 24 [0x07#8, 0x11#8]).byteAt i = (packetOf 24 [0x07#8, 0x5a#8]).byteAt i) ∧
    ¬ ((packetOf 24 [0x07#8, 0x11#8]).typeCode = 0#4 ∨ (packetOf 24 [0x07#8, 0x11#8]).typeCode = 1#4) ∧
    (packetOf 24 [0x07#8, 0x11#8]).byteAt 9 ≠ (packetOf 24 [0x07#8, 0x5a#8]).byteAt 9 := by decide

theorem test_witness_StepKeepsTheInvariant : respondingState.Inv ∧ ∃ t, step respondingState = .next t :=
  ⟨test_witness_Inv_of_respondingState, _, rfl⟩

theorem test_witness_NoStepStopsUnderTheInvariant : takenState.Inv := test_witness_Inv_of_takenState

theorem test_witness_SteppedOperationsAreDecode :
    takenState.accepting = true ∧ takenState.ev = Eval.start := by decide

theorem test_witness_ResponsesAreDecodesInOrder :
    takenState.st = .idle ∧ trace 4 takenState = ([.accepted scenario3], (trace 4 takenState).2) ∧
    Event.reset ∉ [Event.accepted scenario3] := ⟨rfl, rfl, by decide⟩

theorem test_witness_ResponseStaysUntilTakenOrReset :
    respondingState.st = .full ∧
    trace 0 respondingState = ([], respondingState) ∧
    trace 1 respondingState = ([.taken scenario3Record], (trace 1 respondingState).2) := ⟨rfl, rfl, rfl⟩

theorem test_witness_SendThenTakeGivesTheDecode :
    ∃ (s : State) (cs : List Cycle), s.st = .idle ∧ s.ev = Eval.start ∧
      scriptCycles (decodeCmd scenario3) s.st = some cs ∧ s.inputs = cs :=
  ⟨{ State.reset with inputs := [(HostCmd.send scenario3).drive, HostCmd.take.drive] }, _, rfl, rfl, rfl, rfl⟩

theorem test_witness_ResetEdgeDropsResponseAndRequest :
    (portState .full scenario3Record (portCycle true true true)).cycle.rst = true := rfl

end Sys2Proof.Tests
end

section
/-! SUPPORT. Reads of the packet buffer: when `MemRead` answers and when it stops, what the fields of
each width are, and the byte order of a multi-byte read. -/

namespace Sys2Proof.Machine

theorem memRead_of_length_lt (q : Request) (off n : Nat) (h : q.len.toNat < off + n) :
    memRead q off n = .error (.readPastEnd (off + n - 1)) :=
  if_pos h

theorem memRead_of_window_lt (q : Request) (off n : Nat) (h : off + n ≤ q.len.toNat)
    (hw : 24 < off + n) : memRead q off n = .error (.outsideWindow (off + n - 1)) :=
  (if_neg (Nat.not_lt.2 h)).trans (if_pos hw)

theorem readU8_of_le (q : Request) (off : Nat) (h : off + 1 ≤ q.len.toNat) (hw : off + 1 ≤ 24) :
    readU8 q off = .ok (q.byteAt off) :=
  (memRead_of_le q off 1 h hw).trans (congrArg Except.ok (q.bigEndian_one off))

theorem readU16_of_le (q : Request) (off : Nat) (h : off + 2 ≤ q.len.toNat) (hw : off + 2 ≤ 24) :
    readU16 q off = .ok (q.bigEndian off 2) :=
  memRead_of_le q off 2 h hw

theorem readU24_of_le (q : Request) (off : Nat) (h : off + 3 ≤ q.len.toNat) (hw : off + 3 ≤ 24) :
    readU24 q off = .ok (q.bigEndian off 3) :=
  memRead_of_le q off 3 h hw

theorem readU48_of_le (q : Request) (off : Nat) (h : off + 6 ≤ q.len.toNat) (hw : off + 6 ≤ 24) :
    readU48 q off = .ok (joinU48 (q.bigEndian off 4) (q.bigEndian (off + 4) 2)) := by
  have hhigh : readU32 q off = .ok (q.bigEndian off 4) :=
    memRead_of_le q off 4 (by omega) (by omega)
  have hlow := readU16_of_le q (off + 4) (by omega) (by omega)
  simp only [readU48, hhigh, hlow]
  rfl

/-- Settles O7: the two limits are checked in turn, `L` first. -/
theorem memReadReadsOrStops : Obligations.MemReadReadsOrStops := fun q off n =>
  ⟨memRead_of_le q off n, memRead_of_length_lt q off n, memRead_of_window_lt q off n⟩

/-- Settles O6, by induction on the number of bytes after the first: the recursion of `bigEndian`
takes bytes off the other, less significant end. -/
theorem lowerOffsetIsMoreSignificant : Obligations.LowerOffsetIsMoreSignificant := by
  intro q off n
  induction n with
  | zero =>
    rw [q.bigEndian_succ_toNat]
    simp [Request.bigEndian]
  | succ n ih =>
    have hlast : off + (n + 1) = off + 1 + n := by omega
    calc (q.bigEndian off (n + 1 + 1)).toNat
        = ((q.byteAt off).toNat * 2 ^ (8 * n) + (q.bigEndian (off + 1) n).toNat) * 256 +
            (q.byteAt (off + 1 + n)).toNat := by rw [q.bigEndian_succ_toNat, ih, hlast]
      _ = (q.byteAt off).toNat * 2 ^ (8 * (n + 1)) +
            ((q.bigEndian (off + 1) n).toNat * 256 + (q.byteAt (off + 1 + n)).toNat) := by ring
      _ = (q.byteAt off).toNat * 2 ^ (8 * (n + 1)) + (q.bigEndian (off + 1) (n + 1)).toNat := by
          rw [q.bigEndian_succ_toNat]

end Sys2Proof.Machine
end

section
/-! SUPPORT. What each stage of `Decode` answers when the buffer holds the bytes it needs, and that at
its place in a decode each stage answers. -/

namespace Sys2Proof.Machine

variable (q : Request) (e : Eval)

section
variable (status : Status) (cursor : Len) (need : Nat) (k : Except Fault Eval)

theorem requireBytes_of_lt (h : q.len.toNat < cursor.toNat + need) :
    requireBytes status cursor need q k = .ok (raiseTruncated status cursor need q) :=
  if_pos h

theorem requireBytes_of_le (h : cursor.toNat + need ≤ q.len.toNat) :
    requireBytes status cursor need q k = k :=
  if_neg (Nat.not_lt.2 h)

end

theorem hdrFixedStage_of_le (h : 12 ≤ q.len.toNat) :
    hdrFixedStage q e = .ok {
      next := some .seq
      cur := 9#16
      record := { e.record with
        sourcePort := q.bigEndian 0 2
        destPort := q.bigEndian 2 2
        dataOffset := q.byteAt 4
        ccval := ccvalBits (q.byteAt 5)
        cscov := cscovBits (q.byteAt 5)
        checksum := q.bigEndian 6 2
        reserved := reservedBits (q.byteAt 8)
        type := q.typeCode
        x := q.xFlag } } := by
  rw [hdrFixedStage, requireBytes_of_le _ _ _ _ _ (by simpa using h),
    readU16_of_le q 0 (by omega) (by omega), readU16_of_le q 2 (by omega) (by omega),
    readU8_of_le q 4 (by omega) (by omega), readU8_of_le q 5 (by omega) (by omega),
    readU16_of_le q 6 (by omega) (by omega), readU8_of_le q 8 (by omega) (by omega)]
  rfl

theorem seq48Stage_of_le (h : e.cur.toNat + 7 ≤ q.len.toNat) (hw : e.cur.toNat + 7 ≤ 24) :
    seq48Stage q e = .ok {
      next := some .ext
      cur := e.cur + 7#16
      record := e.record.withSequence
        (joinU48 (q.bigEndian (e.cur.toNat + 1) 4) (q.bigEndian (e.cur.toNat + 1 + 4) 2)) 0#24 } := by
  rw [seq48Stage, requireBytes_of_le _ _ _ _ _ h, readU48_of_le q _ (by omega) (by omega)]
  rfl

theorem seq24Stage_of_le (h : e.cur.toNat + 3 ≤ q.len.toNat) (hw : e.cur.toNat + 3 ≤ 24) :
    seq24Stage q e = .ok {
      next := some .ext
      cur := e.cur + 3#16
      record := e.record.withSequence 0#48 (q.bigEndian e.cur.toNat 3) } := by
  rw [seq24Stage, requireBytes_of_le _ _ _ _ _ h, readU24_of_le q _ h hw]
  rfl

theorem codeStage_of_le (h : e.cur.toNat + 2 ≤ q.len.toNat) (hw : e.cur.toNat + 2 ≤ 24) :
    codeStage q e = .ok (endDecode (e.cur + 2#16)
      (e.record.withExtension .reqresp (q.byteAt (e.cur.toNat + 1)) 0#48 ackSupported 0#16 0#16)) := by
  rw [codeStage, requireBytes_of_le _ _ _ _ _ h, readU8_of_le q _ (by omega) (by omega)]
  rfl

theorem ack48Stage_of_le (h : e.cur.toNat + 8 ≤ q.len.toNat) (hw : e.cur.toNat + 8 ≤ 24) :
    ack48Stage q e = .ok (endDecode (e.cur + 8#16)
      (e.record.withExtension .ack 0#8
        (joinU48 (q.bigEndian (e.cur.toNat + 2) 4) (q.bigEndian (e.cur.toNat + 2 + 4) 2))
        ackSupported 0#16 0#16)) := by
  rw [ack48Stage, requireBytes_of_le _ _ _ _ _ h, readU48_of_le q _ (by omega) (by omega)]
  rfl

/-- With its bytes inside the window this stage ends the decode: with an error or with its record. -/
theorem codeStage_ends (hw : e.cur.toNat + 2 ≤ 24) : ∃ e', codeStage q e = .ok e' ∧ e'.next = none := by
  by_cases h : q.len.toNat < e.cur.toNat + 2
  · exact ⟨_, requireBytes_of_lt q _ _ _ _ h, rfl⟩
  · exact ⟨_, codeStage_of_le q e (Nat.not_lt.1 h) hw, rfl⟩

/-- The same of the 48-bit Ack. -/
theorem ack48Stage_ends (hw : e.cur.toNat + 8 ≤ 24) :
    ∃ e', ack48Stage q e = .ok e' ∧ e'.next = none := by
  by_cases h : q.len.toNat < e.cur.toNat + 8
  · exact ⟨_, requireBytes_of_lt q _ _ _ _ h, rfl⟩
  · exact ⟨_, ack48Stage_of_le q e (Nat.not_lt.1 h) hw, rfl⟩

theorem extensionStage_of_code (h : e.record.type = 0#4 ∨ e.record.type = 1#4) :
    extensionStage q e = codeStage q e :=
  if_pos h

theorem extensionStage_of_ack48 (ht : e.record.type = 3#4) (hx : e.record.x = 1#1) :
    extensionStage q e = ack48Stage q e := by
  simp [extensionStage, ht, hx]

theorem extensionStage_of_ack24 (ht : e.record.type = 3#4) (hx : e.record.x = 0#1) :
    extensionStage q e = ack24Stage q e := by
  simp [extensionStage, ht, hx]

theorem extensionStage_of_unparsed (h0 : e.record.type ≠ 0#4) (h1 : e.record.type ≠ 1#4)
    (h3 : e.record.type ≠ 3#4) : extensionStage q e = unparsedStage q e := by
  simp [extensionStage, h0, h1, h3]

/-- The dispatch of R120 by arms. -/
theorem extensionStage_cases :
    ((e.record.type = 0#4 ∨ e.record.type = 1#4) ∧ extensionStage q e = codeStage q e) ∨
    (e.record.type = 3#4 ∧ e.record.x = 1#1 ∧ extensionStage q e = ack48Stage q e) ∨
    (e.record.type = 3#4 ∧ e.record.x = 0#1 ∧ extensionStage q e = ack24Stage q e) ∨
    (e.record.type ≠ 0#4 ∧ e.record.type ≠ 1#4 ∧ e.record.type ≠ 3#4 ∧
      extensionStage q e = unparsedStage q e) := by
  by_cases hcode : e.record.type = 0#4 ∨ e.record.type = 1#4
  · exact .inl ⟨hcode, extensionStage_of_code q e hcode⟩
  · obtain ⟨h0, h1⟩ := not_or.1 hcode
    by_cases hack : e.record.type = 3#4
    · obtain hx | hx := BitVec.eq_zero_or_eq_one e.record.x
      · exact .inr (.inr (.inl ⟨hack, hx, extensionStage_of_ack24 q e hack hx⟩))
      · exact .inr (.inl ⟨hack, hx, extensionStage_of_ack48 q e hack hx⟩)
    · exact .inr (.inr (.inr ⟨h0, h1, hack, extensionStage_of_unparsed q e h0 h1 hack⟩))

end Sys2Proof.Machine
end

section
/-! SUPPORT. The stages as one function of the stage, their order, and the simulation: a stage run at
its place in a decode leaves an evaluation that is at its place and that ends as the one before. -/

namespace Sys2Proof.Machine

/-- The stage of R140 that an evaluation runs. -/
def stageMeaning : Stage → Request → Eval → Except Fault Eval
  | .hdr => hdrFixedStage
  | .seq => sequenceStage
  | .ext => extensionStage

/-- The stage after a stage (R2). -/
def stageAfter : Stage → Option Stage
  | .hdr => some .seq
  | .seq => some .ext
  | .ext => none

/-- How many stages an evaluation has before it at most. -/
def stagesLeft : Option Stage → Nat
  | none      => 0
  | some .ext => 1
  | some .seq => 2
  | some .hdr => 3

theorem eq_none_of_stagesLeft_le_zero {next : Option Stage} (h : stagesLeft next ≤ 0) :
    next = none := by
  match next, h with
  | none, _ => rfl

theorem stagesLeft_stageAfter (stage : Stage) :
    stagesLeft (stageAfter stage) + 1 = stagesLeft (some stage) := by
  cases stage <;> rfl

theorem ok_bind {ε α β : Type} (v : α) (f : α → Except ε β) : (Except.ok v >>= f) = f v := rfl

theorem unlessEnded_of_ended {e : Eval} {k : Except Fault Eval} (h : e.next = none) :
    unlessEnded e k = .ok e :=
  if_pos h

theorem unlessEnded_of_next {e : Eval} {k : Except Fault Eval} {stage : Stage}
    (h : e.next = some stage) : unlessEnded e k = k :=
  if_neg (by simp [h])

/-- An evaluation carried to its end runs its next stage and then what that stage leaves. -/
theorem resumeDecode_of_stage {q : Request} {e e' : Eval} {stage : Stage}
    (hn : e.next = some stage) (hrun : stageMeaning stage q e = .ok e')
    (hafter : e'.next = none ∨ e'.next = stageAfter stage) :
    resumeDecode q e = resumeDecode q e' := by
  cases stage with
  | hdr =>
    have hfirst : hdrFixedStage q e = .ok e' := hrun
    obtain hend | hseq := hafter
    · simp only [resumeDecode, hn, hend, hfirst, ok_bind, unlessEnded_of_ended hend]
      rfl
    · have hnext : e'.next = some .seq := hseq
      simp only [resumeDecode, hn, hnext, hfirst, ok_bind, unlessEnded_of_next hnext]
  | seq =>
    have hfirst : sequenceStage q e = .ok e' := hrun
    obtain hend | hext := hafter
    · simp only [resumeDecode, hn, hend, hfirst, ok_bind, unlessEnded_of_ended hend]
      rfl
    · have hnext : e'.next = some .ext := hext
      simp only [resumeDecode, hn, hnext, hfirst, ok_bind, unlessEnded_of_next hnext]
  | ext =>
    have hlast : extensionStage q e = .ok e' := hrun
    have hend : e'.next = none := hafter.elim id id
    simp only [resumeDecode, hn, hend, hlast, ok_bind]
    rfl

theorem Eval.positioned_of_ended {q : Request} {e : Eval} (h : e.next = none) : e.Positioned q := by
  simp only [Eval.Positioned, h]

theorem Request.extCursor_of_xFlag_one {q : Request} (h : q.xFlag = 1#1) : q.extCursor = 16 :=
  if_pos h

theorem Request.extCursor_of_xFlag_ne {q : Request} (h : q.xFlag ≠ 1#1) : q.extCursor = 12 :=
  if_neg h

theorem hdrFixedStage_positioned (q : Request) (e : Eval) :
    ∃ e', hdrFixedStage q e = .ok e' ∧ e'.Positioned q ∧
      (e'.next = none ∨ e'.next = some .seq) := by
  by_cases h : q.len.toNat < 12
  · exact ⟨_, requireBytes_of_lt q _ _ _ _ (by simpa using h), Eval.positioned_of_ended rfl, .inl rfl⟩
  · have hlen := Nat.not_lt.1 h
    exact ⟨_, hdrFixedStage_of_le q e hlen, ⟨rfl, hlen, rfl, rfl⟩, .inr rfl⟩

theorem sequenceStage_positioned {q : Request} {e : Eval} (hn : e.next = some .seq)
    (hpos : e.Positioned q) :
    ∃ e', sequenceStage q e = .ok e' ∧ e'.Positioned q ∧
      (e'.next = none ∨ e'.next = some .ext) := by
  simp only [Eval.Positioned, hn] at hpos
  obtain ⟨hcur, hlen, htype, hx⟩ := hpos
  have hc : e.cur.toNat = 9 := by simp [hcur]
  by_cases h1 : e.record.x = 1#1
  · have hext := Request.extCursor_of_xFlag_one (hx ▸ h1)
    rw [show sequenceStage q e = seq48Stage q e from if_pos h1]
    by_cases h : q.len.toNat < e.cur.toNat + 7
    · exact ⟨_, requireBytes_of_lt q _ _ _ _ h, Eval.positioned_of_ended rfl, .inl rfl⟩
    · have hle := Nat.not_lt.1 h
      refine ⟨_, seq48Stage_of_le q e hle (by omega), ⟨?_, ?_, htype, hx⟩, .inr rfl⟩
      · rw [hcur, hext]; rfl
      · rw [hext]; exact le_of_eq_of_le (by omega) hle
  · have hext := Request.extCursor_of_xFlag_ne (hx ▸ h1)
    rw [show sequenceStage q e = seq24Stage q e from if_neg h1]
    have hle : e.cur.toNat + 3 ≤ q.len.toNat := by rw [hc]; exact hlen
    refine ⟨_, seq24Stage_of_le q e hle (by omega), ⟨?_, ?_, htype, hx⟩, .inr rfl⟩
    · rw [hcur, hext]; rfl
    · rw [hext]; exact hlen

/-- The window never cuts a stage 3 read short: the extension cursor is at most 16, and it is 16 where
an Ack number of 48 bits is read. -/
theorem extensionStage_ends {q : Request} {e : Eval} (hn : e.next = some .ext)
    (hpos : e.Positioned q) : ∃ e', extensionStage q e = .ok e' ∧ e'.next = none := by
  simp only [Eval.Positioned, hn] at hpos
  obtain ⟨hcur, -, -, -⟩ := hpos
  have hc : e.cur.toNat ≤ 16 := by
    rw [hcur, Request.extCursor]
    split <;> decide
  obtain ⟨-, h⟩ | ⟨-, -, h⟩ | ⟨-, -, h⟩ | ⟨-, -, -, h⟩ := extensionStage_cases q e <;> rw [h]
  · exact codeStage_ends q e (by omega)
  · exact ack48Stage_ends q e (by omega)
  · exact ⟨_, rfl, rfl⟩
  · exact ⟨_, rfl, rfl⟩

/-- At its place in a decode a stage answers, and leaves an evaluation at its place: ended, or before
the next stage. -/
theorem stageMeaning_positioned {q : Request} {e : Eval} {stage : Stage} (hn : e.next = some stage)
    (hpos : e.Positioned q) :
    ∃ e', stageMeaning stage q e = .ok e' ∧ e'.Positioned q ∧
      (e'.next = none ∨ e'.next = stageAfter stage) := by
  cases stage with
  | hdr => exact hdrFixedStage_positioned q e
  | seq => exact sequenceStage_positioned hn hpos
  | ext =>
    obtain ⟨e', hrun, hend⟩ := extensionStage_ends hn hpos
    exact ⟨e', hrun, Eval.positioned_of_ended hend, .inl hend⟩

theorem Eval.start_honest (q : Request) : Eval.start.Honest q := ⟨rfl, rfl⟩

/-- An honest evaluation that has ended holds the record of `Decode`. -/
theorem Eval.Honest.decodeRequest_eq {q : Request} {e : Eval} (h : e.Honest q) (hn : e.next = none) :
    decodeRequest q = .ok e.record := by
  obtain ⟨-, hdecode⟩ := h
  rw [← hdecode]
  simp only [resumeDecode, hn]

/-- Every stage keeps an evaluation honest, so that stages run one by one stay on the way to what
`Decode` answers. -/
theorem stageMeaning_honest {q : Request} {e : Eval} {stage : Stage} (hn : e.next = some stage)
    (h : e.Honest q) :
    ∃ e', stageMeaning stage q e = .ok e' ∧ e'.Honest q ∧
      (e'.next = none ∨ e'.next = stageAfter stage) := by
  obtain ⟨hpos, hdecode⟩ := h
  obtain ⟨e', hrun, hpos', hafter⟩ := stageMeaning_positioned hn hpos
  exact ⟨e', hrun, ⟨hpos', (resumeDecode_of_stage hn hrun hafter).symm.trans hdecode⟩, hafter⟩

end Sys2Proof.Machine
end

section
/-! SUPPORT. The operation that byte 8 selects at a stage is that stage of `Decode`, and what a step of
an accepting cycle is. -/

namespace Sys2Proof.Machine

theorem runStage_congr {f g : Request → Eval → Except Fault Eval} {s : State}
    (h : f s.request s.ev = g s.request s.ev) : runStage f s = runStage g s := by
  simp only [runStage, h]

/-- Where the record has the `x` of byte 8, the sequence operation selected by byte 8 is the one that
stage 2 runs (R29, R68). -/
theorem exec_decodeSeq (b : Byte) (s : State) (hx : s.ev.record.x = xBit b) :
    exec (decodeSeq b) s = runStage sequenceStage s := by
  by_cases h : xBit b = 1#1
  · have hsel : decodeSeq b = .seq48 (Selector.ofByte b) := if_pos h
    rw [hsel, exec_seq48]
    exact runStage_congr (if_pos (hx.trans h)).symm
  · have hsel : decodeSeq b = .seq24 (Selector.ofByte b) := if_neg h
    rw [hsel, exec_seq24]
    exact runStage_congr (if_neg (hx ▸ h)).symm

/-- The decoder's dispatch of stage 3 by arms, in the shape of `extensionStage_cases`. -/
theorem decodeExt_cases (b : Byte) :
    (typeBits b = 0#4 ∧ decodeExt b = .extRequest (Selector.ofByte b)) ∨
    (typeBits b = 1#4 ∧ decodeExt b = .extResponse (Selector.ofByte b)) ∨
    (typeBits b = 3#4 ∧ xBit b = 1#1 ∧ decodeExt b = .extAck48 (Selector.ofByte b)) ∨
    (typeBits b = 3#4 ∧ xBit b = 0#1 ∧ decodeExt b = .extAck24 (Selector.ofByte b)) ∨
    (typeBits b ≠ 0#4 ∧ typeBits b ≠ 1#4 ∧ typeBits b ≠ 3#4 ∧
      ((typeBits b).toNat, decodeExt b) ∈ unparsedArms (Selector.ofByte b)) := by
  have htype (k : Fin 16) (h : (Selector.ofByte b).type.toFin = k) : typeBits b = BitVec.ofFin k :=
    congrArg BitVec.ofFin h
  simp only [decodeExt]
  split
  case h_1 h => exact .inl ⟨htype _ h, rfl⟩
  case h_2 h => exact .inr (.inl ⟨htype _ h, rfl⟩)
  case h_4 h =>
    obtain hx | hx := BitVec.eq_zero_or_eq_one (xBit b)
    · exact .inr (.inr (.inr (.inl ⟨htype _ h, hx, if_neg (by simp [Selector.ofByte, hx])⟩)))
    · exact .inr (.inr (.inl ⟨htype _ h, hx, if_pos hx⟩))
  case h_17 => omega
  all_goals
    next h =>
      refine .inr (.inr (.inr (.inr ?_)))
      rw [htype _ h]
      exact ⟨by decide, by decide, by decide, by simp [unparsedArms]⟩

/-- Every Unparsed arm runs one meaning (R124). -/
theorem exec_of_mem_unparsedArms {sel : Selector} {n : Nat} {i : Instr}
    (h : (n, i) ∈ unparsedArms sel) (s : State) : exec i s = runStage unparsedStage s := by
  have hall : ∀ p ∈ unparsedArms sel, exec p.2 s = runStage unparsedStage s := by
    simp [unparsedArms]
  exact hall _ h

/-- Where the record has the sub-fields of byte 8, the extension operation selected by byte 8 is the
arm that stage 3 runs (R69, R120). -/
theorem exec_decodeExt (b : Byte) (s : State) (htype : s.ev.record.type = typeBits b)
    (hx : s.ev.record.x = xBit b) : exec (decodeExt b) s = runStage extensionStage s := by
  obtain ⟨ht, hi⟩ | ⟨ht, hi⟩ | ⟨ht, hb, hi⟩ | ⟨ht, hb, hi⟩ | ⟨h0, h1, h3, hi⟩ := decodeExt_cases b
  · rw [hi, exec_extRequest]
    exact runStage_congr (extensionStage_of_code _ _ (.inl (htype.trans ht))).symm
  · rw [hi, exec_extResponse]
    exact runStage_congr (extensionStage_of_code _ _ (.inr (htype.trans ht))).symm
  · rw [hi, exec_extAck48]
    exact runStage_congr (extensionStage_of_ack48 _ _ (htype.trans ht) (hx.trans hb)).symm
  · rw [hi, exec_extAck24]
    exact runStage_congr (extensionStage_of_ack24 _ _ (htype.trans ht) (hx.trans hb)).symm
  · rw [exec_of_mem_unparsedArms hi]
    exact runStage_congr
      (extensionStage_of_unparsed _ _ (htype ▸ h0) (htype ▸ h1) (htype ▸ h3)).symm

theorem exec_decodeAt {s : State} {stage : Stage} (hn : s.ev.next = some stage)
    (hpos : s.ev.Positioned s.request) :
    exec (decodeAt stage (s.request.byteAt 8)) s = runStage (stageMeaning stage) s := by
  cases stage with
  | hdr => rfl
  | seq =>
    simp only [Eval.Positioned, hn] at hpos
    obtain ⟨-, -, -, hx⟩ := hpos
    exact exec_decodeSeq _ s hx
  | ext =>
    simp only [Eval.Positioned, hn] at hpos
    obtain ⟨-, -, htype, hx⟩ := hpos
    exact exec_decodeExt _ s htype hx

theorem State.accepting_iff {s : State} :
    s.accepting = true ↔ s.cycle.rst = false ∧ s.st = .idle ∧ s.cycle.reqValid = true := by
  simp [State.accepting, and_assoc]

theorem step_of_stage {s : State} {stage : Stage} (hacc : s.accepting = true)
    (hn : s.ev.next = some stage) : step s = exec (decodeAt stage (s.request.byteAt 8)) s := by
  simp only [step, State.nextInstr, State.fetchCode, State.pendingStage, hacc, hn, if_true, decode]

theorem step_of_ended {s : State} (hacc : s.accepting = true) (hn : s.ev.next = none) :
    step s = execAccept s := by
  obtain ⟨hrst, hst, hvalid⟩ := State.accepting_iff.1 hacc
  have hsel : s.nextInstr = .accept := by
    simp [State.nextInstr, State.fetchCode, State.pendingStage, hn, decode, decodeEdge,
      State.signals, hrst, hst, hvalid]
  rw [step, hsel, exec_accept]

/-- Settles O22: in an accepting cycle with a stage to run, byte 8 is what the step looks at. -/
theorem stepRunsTheDecodedOperation : Obligations.StepRunsTheDecodedOperation := by
  intro s stage i hrst hst hvalid hn hdec
  have hi : decodeAt stage (s.request.byteAt 8) = i := by simpa [decodeBytes] using hdec
  rw [step_of_stage (State.accepting_iff.2 ⟨hrst, hst, hvalid⟩) hn, hi]

end Sys2Proof.Machine
end

section
/-! The stages of an accepting cycle run one a step (O43): each step keeps the evaluation honest, and
there are at most three before it ends. -/

namespace Sys2Proof.Machine

/-- The commuting step: the operation selected at a stage takes an honest evaluation to an honest one
and changes nothing else. -/
theorem step_honest {s : State} {stage : Stage} (hacc : s.accepting = true)
    (hn : s.ev.next = some stage) (h : s.ev.Honest s.request) :
    ∃ e, step s = .next (s.withEval e) ∧ e.Honest s.request ∧
      (e.next = none ∨ e.next = stageAfter stage) := by
  have ⟨hpos, _⟩ := h
  obtain ⟨e, hrun, he, hafter⟩ := stageMeaning_honest hn h
  refine ⟨e, ?_, he, hafter⟩
  rw [step_of_stage hacc hn, exec_decodeAt hn hpos]
  exact runStage_of_ok hrun

/-- From any point of an accepting cycle with at most `k` stages to run, at most `k` steps end the
evaluation, honestly. -/
theorem run_to_end_of_evaluation (k : Nat) (s : State) (hacc : s.accepting = true)
    (h : s.ev.Honest s.request) (hk : stagesLeft s.ev.next ≤ k) :
    ∃ n e, n ≤ k ∧ e.next = none ∧ e.Honest s.request ∧
      Host.Core.run Sys2Proof.core n s = .next (s.withEval e) := by
  induction k generalizing s with
  | zero =>
    have hend : s.ev.next = none := eq_none_of_stagesLeft_le_zero hk
    exact ⟨0, s.ev, le_rfl, hend, h, rfl⟩
  | succ k ih =>
    cases hn : s.ev.next with
    | none => exact ⟨0, s.ev, Nat.zero_le _, hn, h, rfl⟩
    | some stage =>
      obtain ⟨e₁, hstep, he₁, hafter⟩ := step_honest hacc hn h
      have hk₁ : stagesLeft e₁.next ≤ k := by
        rw [hn, ← stagesLeft_stageAfter] at hk
        obtain hend | hnext := hafter
        · rw [hend]; exact Nat.zero_le k
        · rw [hnext]; omega
      obtain ⟨n, e, hle, hend, he, hrun⟩ := ih (s.withEval e₁) hacc he₁ hk₁
      exact ⟨n + 1, e, Nat.succ_le_succ hle, hend, he, (run_succ_of_next n hstep).trans hrun⟩

/-- Settles O43: `Eval.start` is honest with three stages to run, so at most three steps reach an ended
honest evaluation, which holds the record of `Decode`; the edge then accepts. -/
theorem steppedOperationsAreDecode : Obligations.SteppedOperationsAreDecode := by
  intro s hacc hstart
  have hhonest : s.ev.Honest s.request := hstart ▸ Eval.start_honest s.request
  obtain ⟨n, e, hle, hend, he, hrun⟩ :=
    run_to_end_of_evaluation 3 s hacc hhonest (by rw [hstart]; rfl)
  have hdecode := he.decodeRequest_eq hend
  refine ⟨n, e, hle, hend, hdecode, hrun, ?_⟩
  have hedge : step (s.withEval e) = execAccept (s.withEval e) := step_of_ended hacc hend
  exact hedge.trans (execAccept_eq_next.2 ⟨e.record, hdecode, rfl⟩)

end Sys2Proof.Machine
end

section
/-! What an operation can do to a state: a header operation changes the evaluation alone, a port step
ends the cycle and writes the registers in one of four ways. -/

namespace Sys2Proof.Machine

theorem exec_header_eq_next {i : Instr} {s t : State} (hi : i.stage ≠ none)
    (h : exec i s = .next t) : ∃ e, t = s.withEval e := by
  obtain ⟨f, hf⟩ := exec_header_eq_runStage i hi
  obtain ⟨e, -, ht⟩ := runStage_eq_next.1 ((hf s).symm.trans h)
  exact ⟨e, ht⟩

/-- Settles O17: all that a header operation changes is `ev`. -/
theorem headerOperationsLeaveRegistersAndBuffer :
    Obligations.HeaderOperationsLeaveRegistersAndBuffer := by
  intro i s t hi h
  obtain ⟨e, rfl⟩ := exec_header_eq_next hi h
  exact ⟨rfl, rfl, rfl, fun _ => rfl⟩

/-- The state after a port step: the next cycle begins with no evaluation begun, and the registers hold
what is given. -/
def State.afterEdge (s : State) (st : Handshake) (R : Result) : State :=
  { s.endCycle with st := st, R := R }

@[simp] theorem State.afterEdge_st (s : State) (st : Handshake) (R : Result) :
    (s.afterEdge st R).st = st := rfl
@[simp] theorem State.afterEdge_R (s : State) (st : Handshake) (R : Result) :
    (s.afterEdge st R).R = R := rfl
@[simp] theorem State.afterEdge_inputs (s : State) (st : Handshake) (R : Result) :
    (s.afterEdge st R).inputs = s.inputs.tail := rfl
@[simp] theorem State.afterEdge_ev (s : State) (st : Handshake) (R : Result) :
    (s.afterEdge st R).ev = Eval.start := rfl

/-- What each port step writes in the registers (R144 to R146, R181). -/
theorem exec_portStep_cases {i : Instr} {s t : State} (hi : i.stage = none)
    (h : exec i s = .next t) :
    (i = .accept ∧ ∃ r, decodeRequest s.request = .ok r ∧ t = s.afterEdge .full r) ∨
    (i = .complete ∧ t = s.afterEdge .idle s.R) ∨
    (i = .hold ∧ t = s.afterEdge s.st s.R) ∨
    (i = .reset ∧ t = s.afterEdge .idle Result.zero) := by
  obtain rfl | rfl | rfl | rfl := portStep_of_stage_none i hi
  · exact .inl ⟨rfl, execAccept_eq_next.1 h⟩
  · rw [exec_complete, Host.Outcome.next.injEq] at h
    exact .inr (.inl ⟨rfl, h.symm⟩)
  · rw [exec_hold, Host.Outcome.next.injEq] at h
    exact .inr (.inr (.inl ⟨rfl, h.symm⟩))
  · rw [exec_reset, Host.Outcome.next.injEq] at h
    exact .inr (.inr (.inr ⟨rfl, h.symm⟩))

/-- Settles O23: a step that runs a header operation keeps `st` and `R`, and the four port steps are
gone through by `exec_portStep_cases`. -/
theorem onlyPortStepsWriteTheRegisters : Obligations.OnlyPortStepsWriteTheRegisters := by
  intro s t h
  have hexec : exec s.nextInstr s = .next t := h
  by_cases hstage : s.nextInstr.stage = none
  · obtain ⟨hi, -⟩ | ⟨hi, rfl⟩ | ⟨-, rfl⟩ | ⟨hi, -⟩ := exec_portStep_cases hstage hexec
    · exact ⟨fun _ => .inl hi, fun _ => .inl hi⟩
    · exact ⟨fun _ => .inr (.inl hi), fun hR => absurd rfl hR⟩
    · exact ⟨fun hst => absurd rfl hst, fun hR => absurd rfl hR⟩
    · exact ⟨fun _ => .inr (.inr hi), fun _ => .inr hi⟩
  · obtain ⟨e, rfl⟩ := exec_header_eq_next hstage hexec
    exact ⟨fun hst => absurd rfl hst, fun hR => absurd rfl hR⟩

end Sys2Proof.Machine
end

section
/-! The ports and the registers as bits: the byte lanes of the request, the derived outputs, and the
encodings, none of which loses anything. -/

namespace Sys2Proof.Machine

/-- One more lane stands above the lanes before it. -/
theorem lanesOf_succ_getLsbD (q : Request) (n k : Nat) :
    (lanesOf q (n + 1)).getLsbD k =
      if k < 8 * n then (lanesOf q n).getLsbD k else (q.byteAt n).getLsbD (k - 8 * n) := by
  rw [lanesOf, BitVec.getLsbD_cast, BitVec.getLsbD_append]

theorem lanesOf_getLsbD (q : Request) {n i j : Nat} (hi : i < n) (hj : j < 8) :
    (lanesOf q n).getLsbD (8 * i + j) = (q.byteAt i).getLsbD j := by
  induction n with
  | zero => omega
  | succ n ih =>
    rw [lanesOf_succ_getLsbD]
    obtain hlt | rfl := Nat.lt_succ_iff_lt_or_eq.1 hi
    · rw [if_pos (by omega), ih hlt]
    · rw [if_neg (by omega), Nat.add_sub_cancel_left]

/-- Settles O5, bit by bit of the lane. -/
theorem requestLanesCarryTheBytes : Obligations.RequestLanesCarryTheBytes := by
  intro q i hi
  refine BitVec.eq_of_getLsbD_eq fun j hj => ?_
  rw [BitVec.getLsbD_extractLsb', Request.reqBytes, lanesOf_getLsbD q hi hj]
  simp [hj]

theorem State.reqReady_iff (s : State) :
    s.reqReady = true ↔ s.st = .idle ∧ s.cycle.rst = false := by
  simp [State.reqReady]

theorem State.rspValid_iff (s : State) : s.rspValid = true ↔ s.st = .full := by
  simp [State.rspValid]

/-- Settles O25: `st` cannot be `IDLE` and `FULL` at once. -/
theorem handshakeOutputs : Obligations.HandshakeOutputs := by
  intro s
  refine ⟨s.reqReady_iff, s.rspValid_iff, ?_, rfl, rfl, rfl, fun h => if_pos h, fun h => ?_⟩
  · rintro ⟨hready, hvalid⟩
    obtain ⟨hidle, -⟩ := s.reqReady_iff.1 hready
    exact absurd (hidle.symm.trans (s.rspValid_iff.1 hvalid)) (by decide)
  · simp [State.response, h]

theorem handshakeCode_inj {a b : Handshake} : handshakeCode a = handshakeCode b ↔ a = b := by
  cases a <;> cases b <;> decide

theorem statusCode_inj {a b : Status} : statusCode a = statusCode b ↔ a = b := by
  cases a <;> cases b <;> decide

theorem extKindCode_inj {a b : ExtKind} : extKindCode a = extKindCode b ↔ a = b := by
  cases a <;> cases b <;> decide

/-- Settles O26: the values are those of the definitions, and each encoding is injective. -/
theorem statusAndKindEncodings : Obligations.StatusAndKindEncodings :=
  ⟨rfl, rfl, rfl, rfl, rfl, rfl, rfl, rfl, fun _ _ => statusCode_inj.1, fun _ _ => extKindCode_inj.1⟩

/-- Words put side by side at fixed widths can be told apart again. -/
theorem bitVec_append_inj {m n : Nat} {a b : BitVec m} {c d : BitVec n} :
    a ++ c = b ++ d ↔ a = b ∧ c = d := by
  constructor
  · intro h
    have hhigh := congrArg (BitVec.extractLsb' n m) h
    have hlow := congrArg (BitVec.extractLsb' 0 n) h
    simp only [BitVec.extractLsb'_append_eq_left] at hhigh
    simp only [BitVec.extractLsb'_append_eq_right] at hlow
    exact ⟨hhigh, hlow⟩
  · rintro ⟨rfl, rfl⟩
    rfl

theorem Result.bits_inj {r r' : Result} : r.bits = r'.bits ↔ r = r' := by
  constructor
  · intro h
    have hlast : r.bits = r'.bits ↔ _ ∧ r.hdrLen = r'.hdrLen := bitVec_append_inj
    simp only [hlast, bitVec_append_inj, statusCode_inj, extKindCode_inj, and_assoc] at h
    cases r
    cases r'
    rw [Result.mk.injEq]
    exact h
  · rintro rfl
    rfl

theorem Result.zero_bits : Result.zero.bits = 0#277 := by
  simp [Result.bits, Result.zero, statusCode, extKindCode]

/-- Settles O27: the register bits are fields of fixed width side by side, and no encoding of a field
gives two values one code. -/
theorem registerBitsHoldStAndR : Obligations.RegisterBitsHoldStAndR := by
  refine ⟨fun s t => ?_, by simp [State.registerBits, handshakeCode, Result.zero_bits]⟩
  have hsplit : s.registerBits = t.registerBits ↔
      handshakeCode s.st = handshakeCode t.st ∧ s.R.bits = t.R.bits := bitVec_append_inj
  rw [hsplit, handshakeCode_inj, Result.bits_inj]

end Sys2Proof.Machine
end

section
/-! What `Decode` answers (R28, R120, R141, R142): a coherent record, a response, and on success the
variant of the type code. It is carried through the stages as a property of the record under
construction. -/

namespace Sys2Proof.Machine

/-- What every answer of `Decode` to a request is. -/
structure Result.Answers (r : Result) (q : Request) : Prop where
  coherent : r.Coherent
  response : r.IsResponse
  variant  : r.status = .ok →
    r.extKind = kindOfType q.typeCode ∧ r.type = q.typeCode ∧ r.x = q.xFlag

/-- No diagnostics: the `err_*` fields are 0 (R141). -/
def Result.NoDiagnostics (r : Result) : Prop := r.errCursor = 0#8 ∧ r.errNeed = 0#8 ∧ r.errHave = 0#8

/-- The sequence field that `x` does not select is 0 (R104). -/
def Result.OneSequence (r : Result) : Prop :=
  (r.x = 1#1 → r.seqRaw24 = 0#24) ∧ (r.x = 0#1 → r.seq48 = 0#48)

/-- The record under construction before each stage, and the answer at the end. The extension fields
are free until then: the arm that runs writes all of them. -/
def Eval.Recorded (q : Request) (e : Eval) : Prop :=
  match e.next with
  | none      => e.record.Answers q
  | some .hdr => e.record.NoDiagnostics
  | some .seq => e.record.NoDiagnostics
  | some .ext => e.record.NoDiagnostics ∧ e.record.OneSequence

theorem Result.zero_coherent : Result.zero.Coherent := by
  simp [Result.Coherent, Result.zero]

theorem kindOfType_ne_none (t : BitVec 4) : kindOfType t ≠ .none := by
  unfold kindOfType
  split
  · decide
  · split <;> decide

/-- An error that a length check raises is an answer: the buffer has less from the cursor than is
needed. -/
theorem raiseTruncated_answers {status : Status} {cursor : Len} {need : Nat} {q : Request}
    (hstatus : status ≠ .ok) (hpos : 0 < need) (hbyte : need < 256)
    (hlt : q.len.toNat < cursor.toNat + need) :
    (raiseTruncated status cursor need q).record.Answers q where
  coherent := by
    have hhave : q.len.toNat - cursor.toNat < need := by omega
    refine ⟨fun _ => ⟨?_, ?_⟩, fun hok => absurd hok hstatus, fun _ => rfl, fun _ => ⟨rfl, rfl⟩,
      fun _ => ⟨rfl, rfl⟩⟩
    · simp only [raiseTruncated, errorRecord, BitVec.ofNat_toNat, BitVec.setWidth_eq]
    · simp only [raiseTruncated, BitVec.lt_def, BitVec.toNat_ofNat]
      rwa [Nat.mod_eq_of_lt (by omega), Nat.mod_eq_of_lt hbyte]
  response := ⟨fun _ => hstatus, fun _ => rfl⟩
  variant := fun hok => absurd hok hstatus

/-- A stage 3 arm that completes answers, if it writes the kind of the type code and 0 in the fields of
the other kinds. -/
theorem endDecode_answers {q : Request} {r : Result} {cursor : Len} {kind : ExtKind} {code : BitVec 8}
    {ack48 : U48} {unsupported : BitVec 1} {off len : Len}
    (hdiag : r.NoDiagnostics) (hseq : r.OneSequence) (htype : r.type = q.typeCode)
    (hx : r.x = q.xFlag) (hkind : kindOfType q.typeCode = kind)
    (hcode : kind ≠ .reqresp → code = 0#8)
    (hack : kind ≠ .ack → ack48 = 0#48 ∧ unsupported = 0#1)
    (hraw : kind ≠ .unparsed → off = 0#16 ∧ len = 0#16) :
    (endDecode cursor (r.withExtension kind code ack48 unsupported off len)).record.Answers q where
  coherent := by
    obtain ⟨hcursor, hneed, hhave⟩ := hdiag
    obtain ⟨hone, hzero⟩ := hseq
    exact ⟨fun herr => absurd rfl herr, fun _ => ⟨hcursor, hneed, hhave, hone, hzero⟩, hcode, hack,
      hraw⟩
  response :=
    ⟨fun hnone => absurd (hkind.trans hnone) (kindOfType_ne_none _), fun herr => absurd rfl herr⟩
  variant := fun _ => ⟨hkind.symm, htype, hx⟩

/-- What a stage with a length check answers, given what it answers where the check passes. -/
theorem requireBytes_eq_ok {status : Status} {cursor : Len} {need : Nat} {q : Request}
    {k : Except Fault Eval} {e v : Eval} (h : requireBytes status cursor need q k = .ok e)
    (hpass : cursor.toNat + need ≤ q.len.toNat → requireBytes status cursor need q k = .ok v) :
    (q.len.toNat < cursor.toNat + need ∧ e = raiseTruncated status cursor need q) ∨ e = v := by
  by_cases hlt : q.len.toNat < cursor.toNat + need
  · rw [requireBytes_of_lt q _ _ _ _ hlt] at h
    exact .inl ⟨hlt, (Except.ok.inj h).symm⟩
  · rw [hpass (Nat.not_lt.1 hlt)] at h
    exact .inr (Except.ok.inj h).symm

theorem hdrFixedStage_recorded {q : Request} {e e' : Eval} (hdiag : e.record.NoDiagnostics)
    (hrun : hdrFixedStage q e = .ok e') : e'.Recorded q := by
  obtain ⟨hlt, rfl⟩ | rfl := requireBytes_eq_ok hrun
    fun h => hdrFixedStage_of_le q e (by simpa using h)
  · exact raiseTruncated_answers (by decide) (by decide) (by decide) hlt
  · exact hdiag

theorem sequenceStage_recorded {q : Request} {e e' : Eval} (hcur : e.cur = 9#16)
    (hdiag : e.record.NoDiagnostics) (hrun : sequenceStage q e = .ok e') : e'.Recorded q := by
  have hc : e.cur.toNat = 9 := by simp [hcur]
  by_cases hx : e.record.x = 1#1
  · rw [show sequenceStage q e = seq48Stage q e from if_pos hx] at hrun
    obtain ⟨hlt, rfl⟩ | rfl := requireBytes_eq_ok hrun fun h => seq48Stage_of_le q e h (by omega)
    · exact raiseTruncated_answers (by decide) (by decide) (by decide) hlt
    · exact ⟨hdiag, fun _ => rfl, fun hzero => absurd (hx.symm.trans hzero) (by decide)⟩
  · rw [show sequenceStage q e = seq24Stage q e from if_neg hx] at hrun
    obtain ⟨hlt, rfl⟩ | rfl := requireBytes_eq_ok hrun fun h => seq24Stage_of_le q e h (by omega)
    · exact raiseTruncated_answers (by decide) (by decide) (by decide) hlt
    · exact ⟨hdiag, fun hone => absurd hone hx, fun _ => rfl⟩

theorem kindOfType_reqresp {t : BitVec 4} (h : t = 0#4 ∨ t = 1#4) : kindOfType t = .reqresp :=
  if_pos h

theorem kindOfType_ack {t : BitVec 4} (h : t = 3#4) : kindOfType t = .ack := by
  subst h
  rfl

theorem kindOfType_unparsed {t : BitVec 4} (h0 : t ≠ 0#4) (h1 : t ≠ 1#4) (h3 : t ≠ 3#4) :
    kindOfType t = .unparsed := by
  simp [kindOfType, h0, h1, h3]

theorem Request.extCursor_le (q : Request) : q.extCursor ≤ 16 := by
  unfold Request.extCursor
  split <;> omega

/-- Each arm of the dispatch writes the kind that `kindOfType` gives its type code (R120). -/
theorem extensionStage_recorded {q : Request} {e e' : Eval}
    (hcur : e.cur = BitVec.ofNat 16 q.extCursor) (htype : e.record.type = q.typeCode)
    (hx : e.record.x = q.xFlag) (hdiag : e.record.NoDiagnostics) (hseq : e.record.OneSequence)
    (hrun : extensionStage q e = .ok e') : e'.Recorded q := by
  have hc : e.cur.toNat ≤ 16 := by
    rw [hcur]
    exact (Nat.mod_le _ _).trans q.extCursor_le
  obtain ⟨ht, harm⟩ | ⟨ht, -, harm⟩ | ⟨ht, -, harm⟩ | ⟨h0, h1, h3, harm⟩ :=
    extensionStage_cases q e <;> rw [harm] at hrun
  · obtain ⟨hlt, rfl⟩ | rfl := requireBytes_eq_ok hrun fun h => codeStage_of_le q e h (by omega)
    · exact raiseTruncated_answers (by decide) (by decide) (by decide) hlt
    · exact endDecode_answers hdiag hseq htype hx (kindOfType_reqresp (htype ▸ ht))
        (fun h => absurd rfl h) (fun _ => ⟨rfl, rfl⟩) (fun _ => ⟨rfl, rfl⟩)
  · obtain ⟨hlt, rfl⟩ | rfl := requireBytes_eq_ok hrun fun h => ack48Stage_of_le q e h (by omega)
    · exact raiseTruncated_answers (by decide) (by decide) (by decide) hlt
    · exact endDecode_answers hdiag hseq htype hx (kindOfType_ack (htype ▸ ht))
        (fun _ => rfl) (fun h => absurd rfl h) (fun _ => ⟨rfl, rfl⟩)
  · obtain rfl := Except.ok.inj hrun
    exact endDecode_answers hdiag hseq htype hx (kindOfType_ack (htype ▸ ht))
      (fun _ => rfl) (fun h => absurd rfl h) (fun _ => ⟨rfl, rfl⟩)
  · obtain rfl := Except.ok.inj hrun
    exact endDecode_answers hdiag hseq htype hx
      (kindOfType_unparsed (htype ▸ h0) (htype ▸ h1) (htype ▸ h3))
      (fun _ => rfl) (fun _ => ⟨rfl, rfl⟩) (fun h => absurd rfl h)

/-- A stage run at its place in a decode keeps the property of the record. -/
theorem stageMeaning_recorded {q : Request} {e e' : Eval} {stage : Stage} (hn : e.next = some stage)
    (hpos : e.Positioned q) (hrec : e.Recorded q) (hrun : stageMeaning stage q e = .ok e') :
    e'.Recorded q := by
  cases stage with
  | hdr =>
    simp only [Eval.Recorded, hn] at hrec
    exact hdrFixedStage_recorded hrec hrun
  | seq =>
    simp only [Eval.Positioned, hn] at hpos
    simp only [Eval.Recorded, hn] at hrec
    obtain ⟨hcur, -, -, -⟩ := hpos
    exact sequenceStage_recorded hcur hrec hrun
  | ext =>
    simp only [Eval.Positioned, hn] at hpos
    simp only [Eval.Recorded, hn] at hrec
    obtain ⟨hcur, -, htype, hx⟩ := hpos
    obtain ⟨hdiag, hseq⟩ := hrec
    exact extensionStage_recorded hcur htype hx hdiag hseq hrun

theorem resumeDecode_answers_of_ended {q : Request} {e : Eval} (hn : e.next = none)
    (hrec : e.Recorded q) : ∃ r, resumeDecode q e = .ok r ∧ r.Answers q := by
  simp only [Eval.Recorded, hn] at hrec
  exact ⟨e.record, by simp only [resumeDecode, hn], hrec⟩

/-- An evaluation at its place, carried to its end, answers. -/
theorem resumeDecode_answers (q : Request) (k : Nat) (e : Eval) (hk : stagesLeft e.next ≤ k)
    (hpos : e.Positioned q) (hrec : e.Recorded q) :
    ∃ r, resumeDecode q e = .ok r ∧ r.Answers q := by
  induction k generalizing e with
  | zero => exact resumeDecode_answers_of_ended (eq_none_of_stagesLeft_le_zero hk) hrec
  | succ k ih =>
    cases hn : e.next with
    | none => exact resumeDecode_answers_of_ended hn hrec
    | some stage =>
      obtain ⟨e', hrun, hpos', hafter⟩ := stageMeaning_positioned hn hpos
      have hk' : stagesLeft e'.next ≤ k := by
        rw [hn, ← stagesLeft_stageAfter] at hk
        obtain hend | hnext := hafter
        · rw [hend]; exact Nat.zero_le k
        · rw [hnext]; omega
      rw [resumeDecode_of_stage hn hrun hafter]
      exact ih e' hk' hpos' (stageMeaning_recorded hn hpos hrec hrun)

theorem decodeRequest_answers (q : Request) : ∃ r, decodeRequest q = .ok r ∧ r.Answers q := by
  obtain ⟨hpos, hdecode⟩ := Eval.start_honest q
  rw [← hdecode]
  exact resumeDecode_answers q 3 Eval.start le_rfl hpos ⟨rfl, rfl, rfl⟩

theorem Result.answers_of_decodeRequest {q : Request} {r : Result} (h : decodeRequest q = .ok r) :
    r.Answers q := by
  obtain ⟨r', hr', hanswers⟩ := decodeRequest_answers q
  obtain rfl := Except.ok.inj (hr'.symm.trans h)
  exact hanswers

/-- Settles O36: every record that `Decode` gives is an answer to its request. -/
theorem extensionKindFollowsTheType : Obligations.ExtensionKindFollowsTheType := by
  intro q r h
  have hr := Result.answers_of_decodeRequest h
  exact ⟨hr.variant, hr.response⟩

end Sys2Proof.Machine
end

section
/-! The invariant: it holds after reset, a stage of an accepting cycle keeps it, and so does the edge
that ends a cycle. -/

namespace Sys2Proof.Machine

/-- Settles O40: the all-zero record is coherent, and no evaluation has begun. -/
theorem resetMeetsTheInvariant : Obligations.ResetMeetsTheInvariant where
  buffers  := State.reset_buffers_wf
  coherent := Result.zero_coherent
  response := fun h => absurd h (by decide)
  honest   := Eval.start_honest _
  fresh    := fun _ => rfl

theorem decodeEdge_stage (sig : EdgeSignals) : (decodeEdge sig).stage = none := by
  unfold decodeEdge
  split
  · rfl
  · split
    · rfl
    · split <;> rfl

/-- A step runs a stage of an accepting cycle, or it is a port step. -/
theorem nextInstr_cases (s : State) :
    (∃ stage, s.accepting = true ∧ s.ev.next = some stage) ∨ s.nextInstr.stage = none := by
  cases hp : s.pendingStage with
  | none =>
    refine .inr ?_
    simp only [State.nextInstr, State.fetchCode, hp, decode, decodeEdge_stage]
  | some stage =>
    simp only [State.pendingStage] at hp
    split at hp
    · next hacc => exact .inl ⟨stage, hacc, hp⟩
    · cases hp

theorem State.Inv.withEval {s : State} {e : Eval} (h : s.Inv) (hacc : s.accepting = true)
    (he : e.Honest s.request) : (s.withEval e).Inv where
  buffers  := h.buffers
  coherent := h.coherent
  response := h.response
  honest   := he
  fresh    := fun hnot => Bool.noConfusion (hacc.symm.trans hnot)

/-- After an edge the invariant asks of the registers only what it says of `R`. -/
theorem State.Inv.afterEdge {s : State} {st : Handshake} {R : Result} (h : s.Inv)
    (hcoherent : R.Coherent) (hresponse : st = .full → R.IsResponse) : (s.afterEdge st R).Inv where
  buffers  := fun c hc => h.buffers c (List.mem_of_mem_tail hc)
  coherent := hcoherent
  response := hresponse
  honest   := Eval.start_honest _
  fresh    := fun _ => rfl

theorem exec_portStep_inv {i : Instr} {s t : State} (hi : i.stage = none) (h : s.Inv)
    (hexec : exec i s = .next t) : t.Inv := by
  obtain ⟨-, r, hr, rfl⟩ | ⟨-, rfl⟩ | ⟨-, rfl⟩ | ⟨-, rfl⟩ := exec_portStep_cases hi hexec
  · have hanswers := Result.answers_of_decodeRequest hr
    exact h.afterEdge hanswers.coherent fun _ => hanswers.response
  · exact h.afterEdge h.coherent fun hfull => nomatch hfull
  · exact h.afterEdge h.coherent h.response
  · exact h.afterEdge Result.zero_coherent fun hfull => nomatch hfull

/-- Settles O41: a stage keeps the evaluation honest (`step_honest`); at an edge only `ACCEPT` brings a
new record, and that is an answer of `Decode`. -/
theorem stepKeepsTheInvariant : Obligations.StepKeepsTheInvariant := by
  intro s t h hstep
  obtain ⟨stage, hacc, hn⟩ | hport := nextInstr_cases s
  · obtain ⟨e, hnext, he, -⟩ := step_honest hacc hn h.honest
    rw [hnext, Host.Outcome.next.injEq] at hstep
    exact hstep ▸ h.withEval hacc he
  · exact exec_portStep_inv hport h hstep

end Sys2Proof.Machine
end

section
/-! What a step can do: it answers from every state that meets the invariant, and it takes nothing from
the inputs but the cycle that has ended. -/

namespace Sys2Proof.Machine

/-- A port step answers in every state; `ACCEPT` does because `Decode` does. -/
theorem exec_portStep_answers {i : Instr} (s : State) (hi : i.stage = none) :
    ∃ t, exec i s = .next t := by
  obtain rfl | rfl | rfl | rfl := portStep_of_stage_none i hi
  · obtain ⟨r, hr, -⟩ := decodeRequest_answers s.request
    exact ⟨_, execAccept_eq_next.2 ⟨r, hr, rfl⟩⟩
  · exact ⟨_, exec_complete s⟩
  · exact ⟨_, exec_hold s⟩
  · exact ⟨_, exec_reset s⟩

/-- Settles O42: the honest clause of the invariant lets a stage answer (`step_honest`), and a port step
needs no clause. -/
theorem noStepStopsUnderTheInvariant : Obligations.NoStepStopsUnderTheInvariant := by
  intro s h
  obtain ⟨stage, hacc, hn⟩ | hport := nextInstr_cases s
  · obtain ⟨e, hnext, -⟩ := step_honest hacc hn h.honest
    exact ⟨s.withEval e, hnext⟩
  · exact exec_portStep_answers s hport

/-- All that a step can do: a header operation moves the evaluation on, a port step ends the cycle and
writes the registers. -/
theorem step_cases {s t : State} (h : step s = .next t) :
    (s.nextInstr.stage ≠ none ∧ ∃ e, t = s.withEval e) ∨
    (s.nextInstr = .accept ∧ ∃ r, decodeRequest s.request = .ok r ∧ t = s.afterEdge .full r) ∨
    (s.nextInstr = .complete ∧ t = s.afterEdge .idle s.R) ∨
    (s.nextInstr = .hold ∧ t = s.afterEdge s.st s.R) ∨
    (s.nextInstr = .reset ∧ t = s.afterEdge .idle Result.zero) := by
  have hexec : exec s.nextInstr s = .next t := h
  by_cases hstage : s.nextInstr.stage = none
  · exact .inr (exec_portStep_cases hstage hexec)
  · exact .inl ⟨hstage, exec_header_eq_next hstage hexec⟩

/-- A step leaves the inputs as they are, or it ends the current cycle. -/
theorem step_inputs {s t : State} (h : step s = .next t) :
    t.inputs = s.inputs ∨ t.inputs = s.inputs.tail := by
  obtain ⟨-, e, rfl⟩ | ⟨-, r, -, rfl⟩ | ⟨-, rfl⟩ | ⟨-, rfl⟩ | ⟨-, rfl⟩ := step_cases h
  · exact .inl rfl
  all_goals exact .inr rfl

/-- Settles O24: a buffer is part of a cycle of the inputs, and a step writes none of those. -/
theorem noStepWritesThePacketBuffer : Obligations.NoStepWritesThePacketBuffer := by
  intro s t h
  obtain hsame | htail := step_inputs h
  · have hreq : t.request = s.request := by rw [State.request, State.cycle, hsame]; rfl
    exact .inl ⟨hsame, fun a => by rw [hreq]⟩
  · refine .inr ⟨htail, fun k a => ?_⟩
    rw [htail, List.map_tail, List.getElem?_tail]

end Sys2Proof.Machine
end

section
/-! The transaction view of a run (O44): a response is on the port exactly between the `ACCEPT` that
brings it and the `COMPLETE` that takes it, so that one law of conservation holds of every step. -/

namespace Sys2Proof.Machine

theorem State.response_of_full {s : State} (h : s.st = .full) : s.response = some s.R :=
  if_pos (s.rspValid_iff.2 h)

theorem State.response_of_idle {s : State} (h : s.st = .idle) : s.response = none := by
  simp [State.response, State.rspValid, h]

/-- The response port shows `st` and `R` and nothing else. -/
theorem State.response_congr {s t : State} (hst : t.st = s.st) (hR : t.R = s.R) :
    t.response = s.response := by
  have hvalid : t.rspValid = s.rspValid := by simp only [State.rspValid, hst]
  rw [State.response, State.response, hvalid, hR]

/-- A port step is the one that the signals choose. -/
theorem nextInstr_of_stage_none {s : State} (h : s.nextInstr.stage = none) :
    s.nextInstr = decodeEdge s.signals := by
  cases hp : s.pendingStage with
  | none => simp only [State.nextInstr, State.fetchCode, hp, decode]
  | some stage =>
    simp only [State.nextInstr, State.fetchCode, hp, decode, decodeAt_stage] at h
    cases h

theorem idle_of_decodeEdge_accept {sig : EdgeSignals} (h : decodeEdge sig = .accept) :
    sig.st = .idle := by
  unfold decodeEdge at h
  split at h
  · cases h
  · split at h
    · next hacc => exact hacc.1
    · split at h <;> cases h

theorem full_of_decodeEdge_complete {sig : EdgeSignals} (h : decodeEdge sig = .complete) :
    sig.st = .full := by
  unfold decodeEdge at h
  split at h
  · cases h
  · split at h
    · cases h
    · split at h
      · next hcomp => exact hcomp.1
      · cases h

theorem State.idle_of_accept {s : State} (h : s.nextInstr = .accept) : s.st = .idle :=
  idle_of_decodeEdge_accept ((nextInstr_of_stage_none (by rw [h]; rfl)).symm.trans h)

theorem State.full_of_complete {s : State} (h : s.nextInstr = .complete) : s.st = .full :=
  full_of_decodeEdge_complete ((nextInstr_of_stage_none (by rw [h]; rfl)).symm.trans h)

/-- What `Decode` answers to the requests accepted in a trace, in order. -/
def owedResponses (es : List Event) : List (Except Fault Result) :=
  (acceptedRequests es).map decodeRequest

/-- The responses given up in a trace, in order, as answers of `Decode`. -/
def givenResponses (es : List Event) : List (Except Fault Result) :=
  (takenResponses es).map .ok

/-- The response on the port, if there is one. -/
def State.pendingResponses (s : State) : List (Except Fault Result) := s.response.toList.map .ok

theorem owedResponses_append (a b : List Event) :
    owedResponses (a ++ b) = owedResponses a ++ owedResponses b := by
  simp only [owedResponses, acceptedRequests_append, List.map_append]

theorem givenResponses_append (a b : List Event) :
    givenResponses (a ++ b) = givenResponses a ++ givenResponses b := by
  simp only [givenResponses, takenResponses_append, List.map_append]

/-- A step without an event that keeps the port keeps what is pending. -/
theorem conserved_of_event_none {s t : State} (hev : s.event = none)
    (hport : t.response = s.response) :
    s.pendingResponses ++ owedResponses s.event.toList =
      givenResponses s.event.toList ++ t.pendingResponses := by
  rw [hev, State.pendingResponses, State.pendingResponses, hport]
  exact List.append_nil _

/-- The law of conservation for one step: what was pending and what is newly owed is what is given up
and what is pending then. -/
theorem step_conserves_responses {s t : State} (h : step s = .next t) (hreset : s.event ≠ some .reset) :
    s.pendingResponses ++ owedResponses s.event.toList =
      givenResponses s.event.toList ++ t.pendingResponses := by
  obtain ⟨hheader, e, rfl⟩ | ⟨hi, r, hr, rfl⟩ | ⟨hi, rfl⟩ | ⟨hi, rfl⟩ | ⟨hi, -⟩ := step_cases h
  · exact conserved_of_event_none (event_of_header s hheader) (State.response_congr rfl rfl)
  · have hev : s.event = some (.accepted s.request) := by rw [State.event, hi]
    have hnow := State.response_of_idle (State.idle_of_accept hi)
    have hthen : (s.afterEdge .full r).response = some r := State.response_of_full rfl
    rw [hev, State.pendingResponses, State.pendingResponses, hnow, hthen]
    exact congrArg (fun a => [a]) hr
  · have hev : s.event = some (.taken s.R) := by rw [State.event, hi]
    have hnow := State.response_of_full (State.full_of_complete hi)
    have hthen : (s.afterEdge .idle s.R).response = none := State.response_of_idle rfl
    rw [hev, State.pendingResponses, State.pendingResponses, hnow, hthen]
    rfl
  · have hev : s.event = none := by rw [State.event, hi]
    exact conserved_of_event_none hev (State.response_congr rfl rfl)
  · exact absurd (by rw [State.event, hi]) hreset

/-- A run that cannot step ends where it stands. -/
theorem trace_of_stopped (k : Nat) {s : State} (h : ∀ t, step s ≠ .next t) : trace k s = ([], s) := by
  cases k with
  | zero => rfl
  | succ k =>
    cases hstep : step s with
    | next t => exact absurd hstep (h t)
    | fault f => simp only [trace, hstep]
    | refused r => simp only [trace, hstep]

/-- The law of conservation for a run, from any state. -/
theorem trace_conserves_responses (k : Nat) (s : State) (hreset : .reset ∉ (trace k s).1) :
    s.pendingResponses ++ owedResponses (trace k s).1 =
      givenResponses (trace k s).1 ++ (trace k s).2.pendingResponses := by
  induction k generalizing s with
  | zero => exact List.append_nil _
  | succ k ih =>
    by_cases hstep : ∃ t, step s = .next t
    · obtain ⟨t, ht⟩ := hstep
      simp only [trace_succ_of_next k ht, List.mem_append, not_or, Option.mem_toList] at hreset ⊢
      obtain ⟨hfirst, hrest⟩ := hreset
      calc s.pendingResponses ++ owedResponses (s.event.toList ++ (trace k t).1)
          = (s.pendingResponses ++ owedResponses s.event.toList) ++ owedResponses (trace k t).1 := by
            rw [owedResponses_append, List.append_assoc]
        _ = givenResponses s.event.toList ++
              (t.pendingResponses ++ owedResponses (trace k t).1) := by
            rw [step_conserves_responses ht hfirst, List.append_assoc]
        _ = givenResponses (s.event.toList ++ (trace k t).1) ++ (trace k t).2.pendingResponses := by
            rw [ih t hrest, givenResponses_append, List.append_assoc]
    · rw [trace_of_stopped (k + 1) (not_exists.1 hstep)]
      exact List.append_nil _

/-- Settles O44: nothing is pending at first, so what is owed is what has been given up and what is
pending at the end. -/
theorem responsesAreDecodesInOrder : Obligations.ResponsesAreDecodesInOrder := by
  intro k s t es hidle htrace hreset
  have hnone : s.pendingResponses = [] := by
    rw [State.pendingResponses, State.response_of_idle hidle]; rfl
  have hlaw := trace_conserves_responses k s (by rwa [htrace])
  rw [htrace, hnone] at hlaw
  rw [List.map_append]
  exact hlaw

end Sys2Proof.Machine
end

section
/-! The offsets read (O39): each stage answers alike on requests that agree on what it reads, and so does
an evaluation carried to its end. -/

namespace Sys2Proof.Machine

theorem Request.bigEndian_congr {q q' : Request} {off n : Nat}
    (h : ∀ i, off ≤ i → i < off + n → q.byteAt i = q'.byteAt i) :
    q.bigEndian off n = q'.bigEndian off n := by
  induction n with
  | zero => rfl
  | succ n ih =>
    rw [Request.bigEndian, Request.bigEndian, ih fun i hi hn => h i hi (by omega),
      h (off + n) (by omega) (by omega)]

theorem memRead_congr {q q' : Request} {off n : Nat} (hlen : q.len = q'.len)
    (h : ∀ i, off ≤ i → i < off + n → q.byteAt i = q'.byteAt i) :
    memRead q off n = memRead q' off n := by
  rw [memRead, memRead, hlen, Request.bigEndian_congr h]

theorem readU48_congr {q q' : Request} {off : Nat} (hlen : q.len = q'.len)
    (h : ∀ i, off ≤ i → i < off + 6 → q.byteAt i = q'.byteAt i) :
    readU48 q off = readU48 q' off := by
  have hhigh : readU32 q off = readU32 q' off :=
    memRead_congr hlen fun i hi hn => h i hi (by omega)
  have hlow : readU16 q (off + 4) = readU16 q' (off + 4) :=
    memRead_congr hlen fun i hi hn => h i (by omega) (by omega)
  rw [readU48, readU48, hhigh, hlow]

/-- An error depends on the length alone, so a stage's bytes count only where its check passes. -/
theorem requireBytes_congr {q q' : Request} {status : Status} {cursor : Len} {need : Nat}
    {k k' : Except Fault Eval} (hlen : q.len = q'.len)
    (hk : cursor.toNat + need ≤ q.len.toNat → k = k') :
    requireBytes status cursor need q k = requireBytes status cursor need q' k' := by
  by_cases h : q.len.toNat < cursor.toNat + need
  · rw [requireBytes_of_lt q _ _ _ _ h, requireBytes_of_lt q' _ _ _ _ (hlen ▸ h), raiseTruncated,
      raiseTruncated, hlen]
  · have hle := Nat.not_lt.1 h
    rw [requireBytes_of_le q _ _ _ _ hle, requireBytes_of_le q' _ _ _ _ (hlen ▸ hle), hk hle]

section
variable {q q' : Request} (e : Eval) (hlen : q.len = q'.len)
include hlen

theorem hdrFixedStage_congr (h : 12 ≤ q.length → ∀ i, i < 9 → q.byteAt i = q'.byteAt i) :
    hdrFixedStage q e = hdrFixedStage q' e := by
  refine requireBytes_congr hlen fun hlong => ?_
  have hread (off n : Nat) (hoff : off + n ≤ 9) : memRead q off n = memRead q' off n :=
    memRead_congr hlen fun i _ hi => h (by simpa [Request.length] using hlong) i (by omega)
  simp only [readU8, readU16, hread 0 2 (by decide), hread 2 2 (by decide), hread 4 1 (by decide),
    hread 5 1 (by decide), hread 6 2 (by decide), hread 8 1 (by decide)]

theorem seq48Stage_congr (h : e.cur.toNat + 7 ≤ q.length →
    ∀ i, e.cur.toNat + 1 ≤ i → i < e.cur.toNat + 7 → q.byteAt i = q'.byteAt i) :
    seq48Stage q e = seq48Stage q' e := by
  refine requireBytes_congr hlen fun hlong => ?_
  rw [readU48_congr hlen fun i hi hn => h hlong i hi (by omega)]

theorem seq24Stage_congr (h : e.cur.toNat + 3 ≤ q.length →
    ∀ i, e.cur.toNat ≤ i → i < e.cur.toNat + 3 → q.byteAt i = q'.byteAt i) :
    seq24Stage q e = seq24Stage q' e := by
  refine requireBytes_congr hlen fun hlong => ?_
  have hread : readU24 q e.cur.toNat = readU24 q' e.cur.toNat := memRead_congr hlen (h hlong)
  rw [hread]

theorem codeStage_congr (h : e.cur.toNat + 2 ≤ q.length →
    q.byteAt (e.cur.toNat + 1) = q'.byteAt (e.cur.toNat + 1)) :
    codeStage q e = codeStage q' e := by
  refine requireBytes_congr hlen fun hlong => ?_
  have hread : readU8 q (e.cur.toNat + 1) = readU8 q' (e.cur.toNat + 1) :=
    memRead_congr hlen fun i hi hn => by
      obtain rfl : i = e.cur.toNat + 1 := by omega
      exact h hlong
  rw [hread]

theorem ack48Stage_congr (h : e.cur.toNat + 8 ≤ q.length →
    ∀ i, e.cur.toNat + 2 ≤ i → i < e.cur.toNat + 8 → q.byteAt i = q'.byteAt i) :
    ack48Stage q e = ack48Stage q' e := by
  refine requireBytes_congr hlen fun hlong => ?_
  rw [readU48_congr hlen fun i hi hn => h hlong i hi (by omega)]

/-- A descriptor is made of the cursor and the length. -/
theorem unparsedStage_congr : unparsedStage q e = unparsedStage q' e := by
  rw [unparsedStage, unparsedStage, hlen]

end

/-- The requests have one length and the same bytes at the offsets of R46's table. -/
structure Request.AgreeOnReads (q q' : Request) : Prop where
  len   : q.len = q'.len
  fixed : ∀ i, i < 9 → 12 ≤ q.length → q.byteAt i = q'.byteAt i
  seq24 : ∀ i, 9 ≤ i → i < 12 → 12 ≤ q.length → q.xFlag = 0#1 → q.byteAt i = q'.byteAt i
  seq48 : ∀ i, 10 ≤ i → i < 16 → 16 ≤ q.length → q.xFlag = 1#1 → q.byteAt i = q'.byteAt i
  code  : q.typeCode = 0#4 ∨ q.typeCode = 1#4 → q.extCursor + 2 ≤ q.length →
    q.byteAt (q.extCursor + 1) = q'.byteAt (q.extCursor + 1)
  ack48 : ∀ i, 18 ≤ i → i < 24 → 24 ≤ q.length → q.xFlag = 1#1 → q.typeCode = 3#4 →
    q.byteAt i = q'.byteAt i

theorem Request.extCursor_toNat (q : Request) : (BitVec.ofNat 16 q.extCursor).toNat = q.extCursor := by
  rw [BitVec.toNat_ofNat, Nat.mod_eq_of_lt (q.extCursor_le.trans_lt (by decide))]

theorem sequenceStage_congr {q q' : Request} {e : Eval} (hagree : q.AgreeOnReads q')
    (hcur : e.cur = 9#16) (hx : e.record.x = q.xFlag) :
    sequenceStage q e = sequenceStage q' e := by
  have hc : e.cur.toNat = 9 := by simp [hcur]
  by_cases h1 : e.record.x = 1#1
  · simp only [sequenceStage, if_pos h1]
    refine seq48Stage_congr e hagree.len fun hlong i hi hn => ?_
    exact hagree.seq48 i (by omega) (by omega) (by omega) (hx ▸ h1)
  · have h0 : q.xFlag = 0#1 := (BitVec.eq_zero_or_eq_one _).resolve_right (hx ▸ h1)
    simp only [sequenceStage, if_neg h1]
    refine seq24Stage_congr e hagree.len fun hlong i hi hn => ?_
    exact hagree.seq24 i (by omega) (by omega) (by omega) h0

theorem extensionStage_congr {q q' : Request} {e : Eval} (hagree : q.AgreeOnReads q')
    (hcur : e.cur = BitVec.ofNat 16 q.extCursor) (htype : e.record.type = q.typeCode)
    (hx : e.record.x = q.xFlag) : extensionStage q e = extensionStage q' e := by
  have hc : e.cur.toNat = q.extCursor := hcur ▸ q.extCursor_toNat
  obtain ⟨ht, harm⟩ | ⟨ht, h1, harm⟩ | ⟨ht, h0, harm⟩ | ⟨h0, h1, h3, harm⟩ := extensionStage_cases q e
  · rw [harm, extensionStage_of_code q' e ht]
    refine codeStage_congr e hagree.len fun hlong => ?_
    rw [hc] at hlong ⊢
    exact hagree.code (htype ▸ ht) hlong
  · rw [harm, extensionStage_of_ack48 q' e ht h1]
    have hflag : q.xFlag = 1#1 := hx ▸ h1
    rw [Request.extCursor_of_xFlag_one hflag] at hc
    refine ack48Stage_congr e hagree.len fun hlong i hi hn => ?_
    exact hagree.ack48 i (by omega) (by omega) (by omega) hflag (htype ▸ ht)
  · rw [harm, extensionStage_of_ack24 q' e ht h0]
    rfl
  · rw [harm, extensionStage_of_unparsed q' e h0 h1 h3]
    exact unparsedStage_congr e hagree.len

/-- At its place in a decode a stage reads only offsets of the table. -/
theorem stageMeaning_congr {q q' : Request} {e : Eval} {stage : Stage} (hn : e.next = some stage)
    (hpos : e.Positioned q) (hagree : q.AgreeOnReads q') :
    stageMeaning stage q e = stageMeaning stage q' e := by
  cases stage with
  | hdr => exact hdrFixedStage_congr e hagree.len fun hlong i hi => hagree.fixed i hi hlong
  | seq =>
    simp only [Eval.Positioned, hn] at hpos
    obtain ⟨hcur, -, -, hx⟩ := hpos
    exact sequenceStage_congr hagree hcur hx
  | ext =>
    simp only [Eval.Positioned, hn] at hpos
    obtain ⟨hcur, -, htype, hx⟩ := hpos
    exact extensionStage_congr hagree hcur htype hx

theorem resumeDecode_of_ended {q : Request} {e : Eval} (hn : e.next = none) :
    resumeDecode q e = .ok e.record := by
  simp only [resumeDecode, hn]

/-- Each stage run leaves fewer before the evaluation. -/
theorem stagesLeft_le_of_after {next : Option Stage} {stage : Stage} {k : Nat}
    (hafter : next = none ∨ next = stageAfter stage) (hk : stagesLeft (some stage) ≤ k + 1) :
    stagesLeft next ≤ k := by
  obtain rfl | rfl := hafter
  · exact Nat.zero_le k
  · rw [← stagesLeft_stageAfter] at hk
    exact Nat.le_of_succ_le_succ hk

/-- An evaluation at its place ends alike on both requests. -/
theorem resumeDecode_congr {q q' : Request} (hagree : q.AgreeOnReads q') (k : Nat) (e : Eval)
    (hk : stagesLeft e.next ≤ k) (hpos : e.Positioned q) :
    resumeDecode q e = resumeDecode q' e := by
  induction k generalizing e with
  | zero =>
    have hend := eq_none_of_stagesLeft_le_zero hk
    rw [resumeDecode_of_ended hend, resumeDecode_of_ended hend]
  | succ k ih =>
    cases hn : e.next with
    | none => rw [resumeDecode_of_ended hn, resumeDecode_of_ended hn]
    | some stage =>
      obtain ⟨e', hrun, hpos', hafter⟩ := stageMeaning_positioned hn hpos
      have hrun' := (stageMeaning_congr hn hpos hagree).symm.trans hrun
      rw [resumeDecode_of_stage hn hrun hafter, resumeDecode_of_stage hn hrun' hafter]
      exact ih e' (stagesLeft_le_of_after hafter (hn ▸ hk)) hpos'

theorem decodeRequest_congr {q q' : Request} (hagree : q.AgreeOnReads q') :
    decodeRequest q = decodeRequest q' := by
  obtain ⟨hpos, hdecode⟩ := Eval.start_honest q
  obtain ⟨-, hdecode'⟩ := Eval.start_honest q'
  rw [← hdecode, ← hdecode']
  exact resumeDecode_congr hagree 3 Eval.start le_rfl hpos

/-- Settles O39: the hypotheses are what `Request.AgreeOnReads` asks. -/
theorem onlyTheListedOffsetsAreRead : Obligations.OnlyTheListedOffsetsAreRead :=
  fun _ _ hlen hfixed hseq24 hseq48 hcode hack48 =>
    decodeRequest_congr ⟨hlen, hfixed, hseq24, hseq48, hcode, hack48⟩

end Sys2Proof.Machine
end

section
/-! The descriptor of an Unparsed record (O37): the record of a decode is what its last stage leaves,
and only the Unparsed arm of stage 3 leaves one of that kind. -/

namespace Sys2Proof.Machine

/-- Every record that an evaluation ends with was left by a stage that ran at its place. -/
theorem resumeDecode_ended_by_stage {q : Request} {r : Result} (k : Nat) (e : Eval) {stage : Stage}
    (hn : e.next = some stage) (hk : stagesLeft (some stage) ≤ k) (hpos : e.Positioned q)
    (h : resumeDecode q e = .ok r) :
    ∃ last e₁ e₂, e₁.next = some last ∧ e₁.Positioned q ∧
      stageMeaning last q e₁ = .ok e₂ ∧ e₂.next = none ∧ e₂.record = r := by
  induction k generalizing e stage with
  | zero => exact absurd (eq_none_of_stagesLeft_le_zero hk) nofun
  | succ k ih =>
    obtain ⟨e', hrun, hpos', hafter⟩ := stageMeaning_positioned hn hpos
    rw [resumeDecode_of_stage hn hrun hafter] at h
    cases hn' : e'.next with
    | none =>
      rw [resumeDecode_of_ended hn'] at h
      exact ⟨stage, e, e', hn, hpos, hrun, hn', Except.ok.inj h⟩
    | some stage' =>
      exact ih e' hn' (hn' ▸ stagesLeft_le_of_after hafter hk) hpos' h

/-- The record of a decode is what its last stage leaves. -/
theorem decodeRequest_ended_by_stage {q : Request} {r : Result} (h : decodeRequest q = .ok r) :
    ∃ last e₁ e₂, e₁.next = some last ∧ e₁.Positioned q ∧
      stageMeaning last q e₁ = .ok e₂ ∧ e₂.next = none ∧ e₂.record = r := by
  obtain ⟨hpos, hdecode⟩ := Eval.start_honest q
  exact resumeDecode_ended_by_stage 3 Eval.start rfl le_rfl hpos (hdecode.trans h)

/-- Stage 1 ends a decode with an error only. -/
theorem hdrFixedStage_ended {q : Request} {e e' : Eval} (hrun : hdrFixedStage q e = .ok e')
    (hend : e'.next = none) : e'.record.status ≠ .ok := by
  obtain ⟨-, rfl⟩ | rfl := requireBytes_eq_ok hrun
    fun h => hdrFixedStage_of_le q e (by simpa using h)
  · exact nofun
  · cases hend

/-- Stage 2 ends a decode with an error only. -/
theorem sequenceStage_ended {q : Request} {e e' : Eval} (hcur : e.cur = 9#16)
    (hrun : sequenceStage q e = .ok e') (hend : e'.next = none) : e'.record.status ≠ .ok := by
  have hc : e.cur.toNat = 9 := by simp [hcur]
  by_cases hx : e.record.x = 1#1
  · rw [show sequenceStage q e = seq48Stage q e from if_pos hx] at hrun
    obtain ⟨-, rfl⟩ | rfl := requireBytes_eq_ok hrun fun h => seq48Stage_of_le q e h (by omega)
    · exact nofun
    · cases hend
  · rw [show sequenceStage q e = seq24Stage q e from if_neg hx] at hrun
    obtain ⟨-, rfl⟩ | rfl := requireBytes_eq_ok hrun fun h => seq24Stage_of_le q e h (by omega)
    · exact nofun
    · cases hend

/-- A decode that succeeds was ended by stage 3, which ran at its place. -/
theorem decodeRequest_ended_by_extension {q : Request} {r : Result} (h : decodeRequest q = .ok r)
    (hok : r.status = .ok) :
    ∃ e e', e.cur = BitVec.ofNat 16 q.extCursor ∧ q.extCursor ≤ q.length ∧
      e.record.type = q.typeCode ∧ e.record.x = q.xFlag ∧
      extensionStage q e = .ok e' ∧ e'.record = r := by
  obtain ⟨last, e, e', hn, hpos, hrun, hend, rfl⟩ := decodeRequest_ended_by_stage h
  cases last with
  | hdr => exact absurd hok (hdrFixedStage_ended hrun hend)
  | seq =>
    simp only [Eval.Positioned, hn] at hpos
    obtain ⟨hcur, -⟩ := hpos
    exact absurd hok (sequenceStage_ended hcur hrun hend)
  | ext =>
    simp only [Eval.Positioned, hn] at hpos
    obtain ⟨hcur, hlen, htype, hx⟩ := hpos
    exact ⟨e, e', hcur, hlen, htype, hx, hrun, rfl⟩

theorem type_of_kindOfType_unparsed {t : BitVec 4} (h : kindOfType t = .unparsed) :
    t ≠ 0#4 ∧ t ≠ 1#4 ∧ t ≠ 3#4 := by
  refine ⟨?_, ?_, ?_⟩ <;> rintro rfl <;> exact absurd h (by decide)

/-- The descriptor that the Unparsed arm writes (R124). -/
theorem descriptor_of_unparsed {q : Request} {r : Result} (h : decodeRequest q = .ok r)
    (hkind : r.extKind = .unparsed) :
    q.extCursor ≤ q.length ∧ r.rawOff.toNat = q.extCursor ∧
      r.rawLen.toNat = q.length - q.extCursor := by
  have hanswers := Result.answers_of_decodeRequest h
  have hok : r.status = .ok := by
    by_contra herr
    exact nomatch hkind.symm.trans (hanswers.response.2 herr)
  obtain ⟨e, e', hcur, hlen, htype, -, hrun, rfl⟩ := decodeRequest_ended_by_extension h hok
  obtain ⟨hvariant, -, -⟩ := hanswers.variant hok
  obtain ⟨h0, h1, h3⟩ := type_of_kindOfType_unparsed (hvariant.symm.trans hkind)
  rw [extensionStage_of_unparsed q e (htype ▸ h0) (htype ▸ h1) (htype ▸ h3)] at hrun
  obtain rfl := Except.ok.inj hrun
  have hc : e.cur.toNat = q.extCursor := hcur ▸ q.extCursor_toNat
  refine ⟨hlen, hc, ?_⟩
  have hle : e.cur ≤ q.len := BitVec.le_def.2 (hc.trans_le hlen)
  calc (q.len - e.cur).toNat = q.len.toNat - e.cur.toNat := BitVec.toNat_sub_of_le hle
    _ = q.length - q.extCursor := by rw [hc]; rfl

theorem Request.length_bytesAt (q : Request) (off len : Nat) : (q.bytesAt off len).length = len := by
  simp [Request.bytesAt]

theorem Request.getElem?_bytesAt (q : Request) {off len k : Nat} (h : k < len) :
    (q.bytesAt off len)[k]? = some (q.byteAt (off + k)) := by
  simp [Request.bytesAt, h]

/-- Settles O37: the descriptor is (extension cursor, rest of the length), and the bytes it names are
read off from it. -/
theorem descriptorNamesTheRestOfTheBuffer : Obligations.DescriptorNamesTheRestOfTheBuffer := by
  intro q r h hkind
  obtain ⟨hle, hoff, hlen⟩ := descriptor_of_unparsed h hkind
  have hraw : q.rawBytes r = q.bytesAt q.extCursor (q.length - q.extCursor) := by
    rw [Request.rawBytes, hoff, hlen]
  rw [hraw]
  exact ⟨hoff, by omega, q.length_bytesAt _ _, fun k hk => q.getElem?_bytesAt hk⟩

end Sys2Proof.Machine
end

section
/-! The sub-fields of bytes 5 and 8 (O9), and byte 8 taken apart and put together: neither way loses a
bit. -/

namespace Sys2Proof

/-- A mask that is all ones in the bits kept changes none of them. -/
theorem setWidth_and_of_allOnes {w n : Nat} {b m : BitVec w} (h : m.setWidth n = BitVec.allOnes n) :
    (b &&& m).setWidth n = b.setWidth n := by
  rw [BitVec.setWidth_and, h, BitVec.and_allOnes]

theorem reservedBits_eq (b : Byte) : reservedBits b = b.extractLsb' 5 3 :=
  BitVec.setWidth_ushiftRight_eq_extractLsb

theorem typeBits_eq (b : Byte) : typeBits b = b.extractLsb' 1 4 :=
  (setWidth_and_of_allOnes (by decide)).trans BitVec.setWidth_ushiftRight_eq_extractLsb

theorem xBit_eq (b : Byte) : xBit b = b.extractLsb' 0 1 :=
  (setWidth_and_of_allOnes (by decide)).trans (BitVec.setWidth_eq_extractLsb' (by decide))

theorem ccvalBits_eq (b : Byte) : Machine.ccvalBits b = b.extractLsb' 4 4 :=
  BitVec.setWidth_ushiftRight_eq_extractLsb

theorem cscovBits_eq (b : Byte) : Machine.cscovBits b = b.extractLsb' 0 4 :=
  (setWidth_and_of_allOnes (by decide)).trans (BitVec.setWidth_eq_extractLsb' (by decide))

@[simp] theorem Selector.toByte_ofByte (b : Byte) : (Selector.ofByte b).toByte = b := by
  have hhigh : reservedBits b ++ typeBits b = b.extractLsb' 1 7 := by
    rw [reservedBits_eq, typeBits_eq]
    exact BitVec.extractLsb'_append_extractLsb'_eq_extractLsb' rfl
  calc (reservedBits b ++ typeBits b) ++ xBit b
      = b.extractLsb' 1 7 ++ b.extractLsb' 0 1 := by rw [hhigh, xBit_eq]
    _ = b.extractLsb' 0 8 := BitVec.extractLsb'_append_extractLsb'_eq_extractLsb' rfl
    _ = b := BitVec.extractLsb'_eq_self

theorem Selector.toByte_inj {a b : Selector} (h : a.toByte = b.toByte) : a = b := by
  obtain ⟨hhigh, hx⟩ := Machine.bitVec_append_inj.1 h
  obtain ⟨hreserved, htype⟩ := Machine.bitVec_append_inj.1 hhigh
  cases a
  cases b
  rw [Selector.mk.injEq]
  exact ⟨hreserved, htype, hx⟩

@[simp] theorem Selector.ofByte_toByte (sel : Selector) : Selector.ofByte sel.toByte = sel :=
  Selector.toByte_inj (Selector.toByte_ofByte _)

/-- Settles O9: each shift or mask takes a run of bits, and the three runs of byte 8 are side by side. -/
theorem packedSubFieldsAreTheNamedBits : Obligations.PackedSubFieldsAreTheNamedBits := fun b =>
  ⟨ccvalBits_eq b, cscovBits_eq b, reservedBits_eq b, typeBits_eq b, xBit_eq b,
    Selector.toByte_ofByte b⟩

end Sys2Proof
end

section
/-! Decode and encode agree (O1, O3): each stage's dispatch, asked about the byte of a selector, answers
the row that the selector fits. -/

namespace Sys2Proof

theorem decodeHdr_toByte (sel : Selector) : decodeHdr sel.toByte = .hdrFixed sel :=
  congrArg Instr.hdrFixed sel.ofByte_toByte

theorem decodeSeq_toByte (sel : Selector) :
    decodeSeq sel.toByte = if sel.x = 1#1 then .seq48 sel else .seq24 sel := by
  rw [decodeSeq, Selector.ofByte_toByte]

theorem decodeExt_toByte_request {sel : Selector} (h : sel.type = 0#4) :
    decodeExt sel.toByte = .extRequest sel := by
  simp [decodeExt, h]

theorem decodeExt_toByte_response {sel : Selector} (h : sel.type = 1#4) :
    decodeExt sel.toByte = .extResponse sel := by
  simp [decodeExt, h]

theorem decodeExt_toByte_ack {sel : Selector} (h : sel.type = 3#4) :
    decodeExt sel.toByte = if sel.x = 1#1 then .extAck48 sel else .extAck24 sel := by
  simp [decodeExt, h]

/-- The thirteen Unparsed rows (R124): each is selected by its type code alone. -/
theorem decodeExt_toByte_unparsed {sel : Selector} {n : Nat} {i : Instr}
    (hi : (n, i) ∈ Machine.unparsedArms sel) (h : sel.type = BitVec.ofNat 4 n) :
    decodeExt sel.toByte = i := by
  have hall : ∀ p ∈ Machine.unparsedArms sel, sel.type = BitVec.ofNat 4 p.1 →
      decodeExt sel.toByte = p.2 := by
    simp +contextual [Machine.unparsedArms, decodeExt]
  exact hall _ hi h

theorem Instr.wellFormed_extAck48 {sel : Selector} :
    (Instr.extAck48 sel).wellFormed = true ↔ sel.type = 3#4 ∧ sel.x = 1#1 := by
  simp [Instr.wellFormed]

theorem Instr.wellFormed_extAck24 {sel : Selector} :
    (Instr.extAck24 sel).wellFormed = true ↔ sel.type = 3#4 ∧ sel.x = 0#1 := by
  simp [Instr.wellFormed]

/-- Settles O1: a header operation's byte is its selector's, and a port step's signals are its row's. -/
theorem decodeOfEncodeIsTheOperation : Obligations.DecodeOfEncodeIsTheOperation := by
  intro i hwf
  cases i with
  | hdrFixed sel => exact decodeHdr_toByte sel
  | seq48 sel => exact (decodeSeq_toByte sel).trans (if_pos (eq_of_beq hwf))
  | seq24 sel =>
    have hx : sel.x = 0#1 := eq_of_beq hwf
    exact (decodeSeq_toByte sel).trans (if_neg (by simp [hx]))
  | extRequest sel => exact decodeExt_toByte_request (eq_of_beq hwf)
  | extResponse sel => exact decodeExt_toByte_response (eq_of_beq hwf)
  | extAck48 sel =>
    obtain ⟨htype, hx⟩ := Instr.wellFormed_extAck48.1 hwf
    exact (decodeExt_toByte_ack htype).trans (if_pos hx)
  | extAck24 sel =>
    obtain ⟨htype, hx⟩ := Instr.wellFormed_extAck24.1 hwf
    exact (decodeExt_toByte_ack htype).trans (if_neg (by simp [hx]))
  | accept => rfl
  | complete => rfl
  | hold => rfl
  | reset => rfl
  | _ => exact decodeExt_toByte_unparsed (by simp [Machine.unparsedArms]) (eq_of_beq hwf)

end Sys2Proof
end

section
/-! The rows of a stage (O2, O3): a row's match and mask fit a byte exactly where the row's operation,
given the sub-fields of that byte, is well-formed, so that decode after encode (O1) makes the fitting
row the selected one. -/

namespace Sys2Proof

/-- The operation of the same row that carries other sub-fields. -/
def Instr.withSelector (sel : Selector) : Instr → Instr
  | .hdrFixed _       => .hdrFixed sel
  | .seq48 _          => .seq48 sel
  | .seq24 _          => .seq24 sel
  | .extRequest _     => .extRequest sel
  | .extResponse _    => .extResponse sel
  | .extAck48 _       => .extAck48 sel
  | .extAck24 _       => .extAck24 sel
  | .extUnparsedT2 _  => .extUnparsedT2 sel
  | .extUnparsedT4 _  => .extUnparsedT4 sel
  | .extUnparsedT5 _  => .extUnparsedT5 sel
  | .extUnparsedT6 _  => .extUnparsedT6 sel
  | .extUnparsedT7 _  => .extUnparsedT7 sel
  | .extUnparsedT8 _  => .extUnparsedT8 sel
  | .extUnparsedT9 _  => .extUnparsedT9 sel
  | .extUnparsedT10 _ => .extUnparsedT10 sel
  | .extUnparsedT11 _ => .extUnparsedT11 sel
  | .extUnparsedT12 _ => .extUnparsedT12 sel
  | .extUnparsedT13 _ => .extUnparsedT13 sel
  | .extUnparsedT14 _ => .extUnparsedT14 sel
  | .extUnparsedT15 _ => .extUnparsedT15 sel
  | .accept           => .accept
  | .complete         => .complete
  | .hold             => .hold
  | .reset            => .reset

theorem Instr.row_withSelector (sel : Selector) (i : Instr) : (i.withSelector sel).row = i.row := by
  cases i <;> rfl

theorem encode_withSelector (sel : Selector) {i : Instr} {stage : Stage} (h : i.stage = some stage) :
    encode (i.withSelector sel) = .header stage sel.toByte := by
  cases i <;> cases h <;> rfl

/-- The rows that fix the type code: mask 0x1E, and the code in bits 4:1 of the match. -/
theorem typeRow_fits {sel : Selector} {t : BitVec 4} {m : Byte} (hm : m = t.setWidth 8 <<< 1) :
    (sel.toByte &&& 0x1E#8 == m) = (sel.type == t) := by
  subst hm
  rw [Laws.toByte_and_typeMask]
  generalize sel.type = u
  revert u t
  decide

/-- The rows that fix the type code and the flag: mask 0x1F, and both in bits 4:0 of the match. -/
theorem typeFlagRow_fits (sel : Selector) (t : BitVec 4) (x : BitVec 1) :
    (sel.toByte &&& 0x1F#8 == (t ++ x).setWidth 8) = (sel.type == t && sel.x == x) := by
  rw [Laws.toByte_and_typeFlagMask]
  generalize sel.type = u
  generalize sel.x = y
  revert u t y x
  decide

/-- The rows that fix the flag: mask 0x01. -/
theorem flagRow_fits (sel : Selector) (x : BitVec 1) :
    (sel.toByte &&& 0x01#8 == x.setWidth 8) = (sel.x == x) := by
  rw [Laws.toByte_and_flagMask]
  generalize sel.x = y
  revert y x
  decide

/-- A header operation's match and mask (R68) say of a byte what well-formedness says of its
sub-fields. -/
theorem Instr.rowMatches_toByte (sel : Selector) {i : Instr} (h : i.stage ≠ none) :
    i.rowMatches sel.toByte = (i.withSelector sel).wellFormed := by
  cases i with
  | hdrFixed => exact beq_iff_eq.2 BitVec.and_zero
  | seq48 => exact flagRow_fits sel 1#1
  | seq24 => exact flagRow_fits sel 0#1
  | extAck48 => exact typeFlagRow_fits sel 3#4 1#1
  | extAck24 => exact typeFlagRow_fits sel 3#4 0#1
  | accept | complete | hold | reset => exact absurd rfl h
  | _ => exact typeRow_fits rfl

theorem Instr.rowMatches_iff {i : Instr} (h : i.stage ≠ none) (b : Byte) :
    i.rowMatches b = true ↔ (i.withSelector (Selector.ofByte b)).wellFormed = true := by
  rw [← Instr.rowMatches_toByte _ h, Selector.toByte_ofByte]

/-- O1 read from the byte: a well-formed operation is selected by its own byte. -/
theorem decodeAt_of_encode {stage : Stage} {b : Byte} {i : Instr} (henc : encode i = .header stage b)
    (hwf : i.wellFormed = true) : decodeAt stage b = i := by
  have hdecode := decodeOfEncodeIsTheOperation i hwf
  rwa [henc] at hdecode

/-- Settles O3: each word is the encoding of its operation, which fits its row. -/
theorem tableWordsDecode : Obligations.TableWordsDecode :=
  ⟨decodeAt_of_encode rfl rfl, decodeAt_of_encode rfl rfl, decodeAt_of_encode rfl rfl,
    decodeAt_of_encode rfl rfl, decodeAt_of_encode rfl rfl, decodeAt_of_encode rfl rfl,
    decodeAt_of_encode rfl rfl, decodeAt_of_encode rfl rfl, decodeAt_of_encode rfl rfl⟩

/-- A row of the stage whose match and mask fit the byte is the row selected, with the byte's
sub-fields. -/
theorem decodeAt_of_rowMatches {stage : Stage} {b : Byte} {i : Instr} (hstage : i.stage = some stage)
    (hfit : i.rowMatches b = true) : decodeAt stage b = i.withSelector (Selector.ofByte b) := by
  have henc := encode_withSelector (Selector.ofByte b) hstage
  rw [Selector.toByte_ofByte] at henc
  exact decodeAt_of_encode henc ((Instr.rowMatches_iff (by simp [hstage]) b).1 hfit)

theorem wellFormed_of_mem_unparsedArms {sel : Selector} {i : Instr}
    (h : (sel.type.toNat, i) ∈ Machine.unparsedArms sel) :
    i.wellFormed = true ∧ i.withSelector sel = i := by
  have hall : ∀ p ∈ Machine.unparsedArms sel, sel.type.toNat = p.1 →
      p.2.wellFormed = true ∧ p.2.withSelector sel = p.2 := by
    simp [Machine.unparsedArms, Instr.wellFormed, Instr.withSelector, BitVec.toNat_eq]
  exact hall _ h rfl

/-- What is selected fits its row and carries the sub-fields of the byte. -/
theorem decodeAt_wellFormed (stage : Stage) (b : Byte) :
    (decodeAt stage b).wellFormed = true ∧
    (decodeAt stage b).withSelector (Selector.ofByte b) = decodeAt stage b := by
  cases stage with
  | hdr => exact ⟨rfl, rfl⟩
  | seq =>
    rw [decodeAt, ← Selector.toByte_ofByte b, decodeSeq_toByte, Selector.toByte_ofByte]
    obtain hx | hx := BitVec.eq_zero_or_eq_one (Selector.ofByte b).x
    · rw [if_neg (by simp [hx])]
      exact ⟨beq_iff_eq.2 hx, rfl⟩
    · rw [if_pos hx]
      exact ⟨beq_iff_eq.2 hx, rfl⟩
  | ext =>
    rw [decodeAt]
    obtain ⟨ht, hi⟩ | ⟨ht, hi⟩ | ⟨ht, hx, hi⟩ | ⟨ht, hx, hi⟩ | ⟨-, -, -, hi⟩ :=
      Machine.decodeExt_cases b
    · rw [hi]
      exact ⟨beq_iff_eq.2 ht, rfl⟩
    · rw [hi]
      exact ⟨beq_iff_eq.2 ht, rfl⟩
    · rw [hi]
      exact ⟨Instr.wellFormed_extAck48.2 ⟨ht, hx⟩, rfl⟩
    · rw [hi]
      exact ⟨Instr.wellFormed_extAck24.2 ⟨ht, hx⟩, rfl⟩
    · exact wellFormed_of_mem_unparsedArms hi

/-- Settles O2: what is selected carries the sub-fields of the byte and fits its row, and a row that fits
is the one selected. -/
theorem everyByteSelectsOneRowPerStage : Obligations.EveryByteSelectsOneRowPerStage := by
  intro stage b
  obtain ⟨hwf, hsel⟩ := decodeAt_wellFormed stage b
  have hstage := Machine.decodeAt_stage stage b
  refine ⟨?_, hwf, ?_, fun i hi hfit => ?_⟩
  · have henc := encode_withSelector (Selector.ofByte b) hstage
    rwa [hsel, Selector.toByte_ofByte] at henc
  · exact (Instr.rowMatches_iff (by simp [hstage]) b).2 (hsel.symm ▸ hwf)
  · rw [decodeAt_of_rowMatches hi hfit, Instr.row_withSelector]

end Sys2Proof
end

section
/-! The header length (O33): the cursor that the arm of stage 3 ends the decode at. -/

namespace Sys2Proof.Machine

/-- A stage that ends a decode without an error has passed its length check. -/
theorem le_of_requireBytes_ok {status : Status} {cursor : Len} {need : Nat} {q : Request}
    {k : Except Fault Eval} {e : Eval} (h : requireBytes status cursor need q k = .ok e)
    (hstatus : status ≠ .ok) (hok : e.record.status = .ok) : cursor.toNat + need ≤ q.len.toNat := by
  obtain ⟨-, hraise⟩ | ⟨hle, -⟩ := requireBytes_cases status cursor need q k
  · obtain rfl := Except.ok.inj (hraise.symm.trans h)
    exact absurd hok hstatus
  · exact hle

/-- A cursor moved on by bytes that the buffer holds stays within it. -/
theorem add_le_len {cursor : Len} {q : Request} {need : Nat} (h : cursor.toNat + need ≤ q.len.toNat) :
    cursor + BitVec.ofNat 16 need ≤ q.len := by
  have hlen := q.len.isLt
  rw [BitVec.le_def, BitVec.toNat_add, BitVec.toNat_ofNat, Nat.mod_eq_of_lt (a := need) (by omega),
    Nat.mod_eq_of_lt (by omega)]
  exact h

theorem Request.extCursor_add_two (q : Request) :
    BitVec.ofNat 16 q.extCursor + 2#16 = if q.xFlag = 1#1 then 18#16 else 14#16 := by
  unfold Request.extCursor
  split <;> rfl

/-- The header length of R65's table, by type code and `x`. -/
def tableLength (type : BitVec 4) (x : BitVec 1) (len : Len) : Len :=
  if type = 0#4 ∨ type = 1#4 then (if x = 1#1 then 18#16 else 14#16)
  else if type = 3#4 then (if x = 1#1 then 24#16 else 12#16)
  else len

/-- The arms of stage 3 at the extension cursor: each ends the decode at the length of its row of R65's
table, and not past `L`. -/
theorem extensionStage_hdrLen {q : Request} {e e' : Eval} (hcur : e.cur = BitVec.ofNat 16 q.extCursor)
    (hlen : q.extCursor ≤ q.length) (hx : e.record.x = q.xFlag) (hrun : extensionStage q e = .ok e')
    (hok : e'.record.status = .ok) :
    e'.record.type = e.record.type ∧ e'.record.x = e.record.x ∧
      e'.record.hdrLen = tableLength e.record.type e.record.x q.len ∧ e'.record.hdrLen ≤ q.len := by
  have hc : e.cur.toNat = q.extCursor := hcur ▸ q.extCursor_toNat
  have hcle := q.extCursor_le
  obtain ⟨ht, harm⟩ | ⟨ht, hone, harm⟩ | ⟨ht, hzero, harm⟩ | ⟨h0, h1, h3, harm⟩ :=
    extensionStage_cases q e <;> rw [harm] at hrun
  · have hle := le_of_requireBytes_ok hrun (by decide) hok
    rw [codeStage_of_le q e hle (by omega)] at hrun
    obtain rfl := Except.ok.inj hrun
    refine ⟨rfl, rfl, ?_, add_le_len hle⟩
    rw [tableLength, if_pos ht, hx, ← q.extCursor_add_two, ← hcur]
    rfl
  · have hle := le_of_requireBytes_ok hrun (by decide) hok
    rw [ack48Stage_of_le q e hle (by omega)] at hrun
    obtain rfl := Except.ok.inj hrun
    have hcursor : e.cur = 16#16 := by rw [hcur, Request.extCursor_of_xFlag_one (hx ▸ hone)]
    refine ⟨rfl, rfl, ?_, add_le_len hle⟩
    simp [tableLength, ht, hone, hcursor]
  · obtain rfl := Except.ok.inj hrun
    have hcursor : e.cur = 12#16 := by
      rw [hcur, Request.extCursor_of_xFlag_ne (by simp [← hx, hzero])]
    refine ⟨rfl, rfl, ?_, BitVec.le_def.2 (hc.trans_le hlen)⟩
    simp [tableLength, ht, hzero, hcursor]
  · obtain rfl := Except.ok.inj hrun
    refine ⟨rfl, rfl, ?_, BitVec.le_refl _⟩
    simp [tableLength, h0, h1, h3]

/-- Settles O33: a decode that succeeds was ended by stage 3, and its length is that of the table. -/
theorem headerLengthOnSuccess : Obligations.HeaderLengthOnSuccess := by
  intro q r h hok
  obtain ⟨e, e', hcur, hlen, -, hx, hrun, rfl⟩ := decodeRequest_ended_by_extension h hok
  obtain ⟨htype', hx', hhdr, hle⟩ := extensionStage_hdrLen hcur hlen hx hrun hok
  rw [← htype', ← hx', tableLength] at hhdr
  refine ⟨fun ht => ?_, fun ht => ?_, fun h0 h1 h3 => ?_, hle⟩
  · rw [hhdr, if_pos ht]
  · rw [hhdr, if_neg (by simp [ht]), if_pos ht]
  · rw [hhdr, if_neg (by simp [h0, h1]), if_neg h3]

end Sys2Proof.Machine
end

section
/-! The `DECODE` script (O46): the stages of the accepting cycle show no event, the edge that ends it
accepts, and the edge of the next cycle completes. -/

namespace Sys2Proof.Machine

theorem nextInstr_of_stage {s : State} {stage : Stage} (hacc : s.accepting = true)
    (hn : s.ev.next = some stage) : s.nextInstr = decodeAt stage (s.request.byteAt 8) := by
  simp only [State.nextInstr, State.fetchCode, State.pendingStage, hacc, hn, if_true, decode]

theorem nextInstr_of_no_stage {s : State} (h : s.pendingStage = none) :
    s.nextInstr = decodeEdge s.signals := by
  simp only [State.nextInstr, State.fetchCode, h, decode]

/-- The edge of an accepting cycle whose stages have run accepts (R144). -/
theorem nextInstr_accept {s : State} (hacc : s.accepting = true) (hn : s.ev.next = none) :
    s.nextInstr = .accept := by
  obtain ⟨hrst, hst, hvalid⟩ := State.accepting_iff.1 hacc
  rw [nextInstr_of_no_stage (by simp [State.pendingStage, hn])]
  simp [decodeEdge, State.signals, hrst, hst, hvalid]

/-- With a response on the port, an edge at which the host is ready completes (R145). -/
theorem nextInstr_complete {s : State} (hrst : s.cycle.rst = false) (hst : s.st = .full)
    (hready : s.cycle.rspReady = true) : s.nextInstr = .complete := by
  have hidle : s.accepting = false := by simp [State.accepting, hst]
  rw [nextInstr_of_no_stage (by simp [State.pendingStage, hidle])]
  simp [decodeEdge, State.signals, hrst, hst, hready]

/-- A step without an event adds nothing to a trace. -/
theorem trace_succ_of_event_none (k : Nat) {s t : State} (h : step s = .next t)
    (hev : s.event = none) : trace (k + 1) s = trace k t := by
  rw [trace_succ_of_next k h, hev]
  rfl

/-- The trace of an accepting cycle passes over its stages: it is the trace from an evaluation that has
ended honestly. -/
theorem trace_to_end_of_evaluation (j : Nat) (s : State) (hacc : s.accepting = true)
    (h : s.ev.Honest s.request) (hj : stagesLeft s.ev.next ≤ j) :
    ∃ n e, e.next = none ∧ e.Honest s.request ∧
      ∀ k, trace (k + n) s = trace k (s.withEval e) := by
  induction j generalizing s with
  | zero => exact ⟨0, s.ev, eq_none_of_stagesLeft_le_zero hj, h, fun _ => rfl⟩
  | succ j ih =>
    cases hn : s.ev.next with
    | none => exact ⟨0, s.ev, hn, h, fun _ => rfl⟩
    | some stage =>
      obtain ⟨e₁, hstep, he₁, hafter⟩ := step_honest hacc hn h
      obtain ⟨n, e, hend, he, htrace⟩ :=
        ih (s.withEval e₁) hacc he₁ (stagesLeft_le_of_after hafter (hn ▸ hj))
      have hev : s.event = none :=
        event_of_header s (by rw [nextInstr_of_stage hacc hn, decodeAt_stage]; nofun)
      exact ⟨n + 1, e, hend, he, fun k => (trace_succ_of_event_none _ hstep hev).trans (htrace k)⟩

/-- The transaction of one accepting cycle: its stages and its edge accept the request and store the
record of `Decode`. -/
theorem trace_accepting_cycle {s : State} (hacc : s.accepting = true) (hstart : s.ev = Eval.start) :
    ∃ n r, decodeRequest s.request = .ok r ∧ ∀ k, trace (k + n) s =
      (.accepted s.request :: (trace k (s.afterEdge .full r)).1, (trace k (s.afterEdge .full r)).2) := by
  have hhonest : s.ev.Honest s.request := hstart ▸ Eval.start_honest s.request
  obtain ⟨n, e, hend, he, htrace⟩ := trace_to_end_of_evaluation 3 s hacc hhonest (by rw [hstart]; rfl)
  have hdecode := he.decodeRequest_eq hend
  have hacc' : (s.withEval e).accepting = true := hacc
  have hedge : step (s.withEval e) = .next (s.afterEdge .full e.record) :=
    (step_of_ended hacc' hend).trans (execAccept_eq_next.2 ⟨e.record, hdecode, rfl⟩)
  have hev : (s.withEval e).event = some (.accepted s.request) := by
    rw [State.event, nextInstr_accept hacc' hend]
    rfl
  refine ⟨n + 1, e.record, hdecode, fun k => ?_⟩
  rw [show k + (n + 1) = k + 1 + n by omega, htrace, trace_succ_of_next k hedge, hev]
  rfl

theorem trace_one_of_complete {s : State} (hi : s.nextInstr = .complete) :
    trace 1 s = ([.taken s.R], s.afterEdge .idle s.R) := by
  have hstep : step s = .next (s.afterEdge .idle s.R) := by rw [step, hi]; rfl
  have hev : s.event = some (.taken s.R) := by rw [State.event, hi]
  rw [trace_succ_of_next 0 hstep, hev]
  rfl

theorem scriptCycles_decodeCmd (q : Request) :
    scriptCycles (decodeCmd q) .idle = some [(HostCmd.send q).drive, HostCmd.take.drive] := rfl

/-- Settles O46: the cycle of `SEND` accepts, and the cycle of `TAKE` completes. -/
theorem sendThenTakeGivesTheDecode : Obligations.SendThenTakeGivesTheDecode := by
  intro s q cs hidle hstart hscript hinputs
  rw [hidle, scriptCycles_decodeCmd, Option.some.injEq] at hscript
  have hdrive : s.inputs = [(HostCmd.send q).drive, HostCmd.take.drive] := hinputs.trans hscript.symm
  have hcycle : s.cycle = (HostCmd.send q).drive := by rw [State.cycle, hdrive]; rfl
  have hreq : s.request = q := by rw [State.request, hcycle]; rfl
  have hacc : s.accepting = true := State.accepting_iff.2 (by rw [hcycle]; exact ⟨rfl, hidle, rfl⟩)
  obtain ⟨n, r, hdecode, htrace⟩ := trace_accepting_cycle hacc hstart
  have hnext : (s.afterEdge .full r).cycle = HostCmd.take.drive := by
    rw [State.cycle, State.afterEdge_inputs, hdrive]
    rfl
  have htake : trace 1 (s.afterEdge .full r) = ([.taken r], (s.afterEdge .full r).afterEdge .idle r) :=
    trace_one_of_complete (nextInstr_complete (by rw [hnext]; rfl) rfl (by rw [hnext]; rfl))
  have hfinal : (s.afterEdge .full r).afterEdge .idle r =
      { st := .idle, R := r, inputs := [], ev := Eval.start } := by
    simp only [State.afterEdge, State.endCycle, hdrive, List.tail_cons]
  refine ⟨1 + n, r, hreq ▸ hdecode, ?_⟩
  rw [htrace, htake, hfinal, hreq]

end Sys2Proof.Machine
end

section
/-! Reads byte by byte: a multi-byte read is its bytes side by side, and so is a 48-bit value that was
read in two parts. -/

namespace Sys2Proof.Machine

section
variable (q : Request) (off : Nat)

theorem Request.bigEndian_two : q.bigEndian off 2 = q.byteAt off ++ q.byteAt (off + 1) :=
  congrArg (fun v : Byte => v ++ q.byteAt (off + 1)) (q.bigEndian_one off)

theorem Request.bigEndian_three :
    q.bigEndian off 3 = q.byteAt off ++ q.byteAt (off + 1) ++ q.byteAt (off + 2) :=
  congrArg (fun v : BitVec 16 => v ++ q.byteAt (off + 2)) (q.bigEndian_two off)

theorem Request.bigEndian_six :
    q.bigEndian off 6 = q.byteAt off ++ q.byteAt (off + 1) ++ q.byteAt (off + 2) ++
      q.byteAt (off + 3) ++ q.byteAt (off + 4) ++ q.byteAt (off + 5) :=
  congrArg (fun v : BitVec 24 => v ++ q.byteAt (off + 3) ++ q.byteAt (off + 4) ++ q.byteAt (off + 5))
    (q.bigEndian_three off)

end

theorem joinU48_eq_append (high : BitVec 32) (low : BitVec 16) : joinU48 high low = high ++ low := by
  rw [joinU48, BitVec.append_def, BitVec.shiftLeftZeroExtend_eq, BitVec.setWidth'_eq]

/-- The two-part read of a 48-bit value (R48, R102) is one read of six bytes. -/
theorem joinU48_bigEndian (q : Request) (off : Nat) :
    joinU48 (q.bigEndian off 4) (q.bigEndian (off + 4) 2) = q.bigEndian off 6 := by
  have happend (v : BitVec 32) (b c : Byte) : v ++ (b ++ c) = v ++ b ++ c := by
    rw [BitVec.append_assoc, BitVec.cast_eq]
  rw [joinU48_eq_append, q.bigEndian_two]
  exact happend _ _ _

end Sys2Proof.Machine
end

section
/-! Stage 1 in the spec's own terms (R80 to R86): the nine fields as named bits of their bytes, and the
error record that a length check leaves. -/

namespace Sys2Proof.Machine

/-- The record with the nine fixed fields of a request (R81 to R85), its other fields kept. -/
def Result.withFixedHeader (r : Result) (q : Request) : Result :=
  { r with
    sourcePort := q.byteAt 0 ++ q.byteAt 1
    destPort := q.byteAt 2 ++ q.byteAt 3
    dataOffset := q.byteAt 4
    ccval := (q.byteAt 5).extractLsb' 4 4
    cscov := (q.byteAt 5).extractLsb' 0 4
    checksum := q.byteAt 6 ++ q.byteAt 7
    reserved := (q.byteAt 8).extractLsb' 5 3
    type := (q.byteAt 8).extractLsb' 1 4
    x := (q.byteAt 8).extractLsb' 0 1 }

@[simp] theorem Result.withFixedHeader_type (r : Result) (q : Request) :
    (r.withFixedHeader q).type = q.typeCode :=
  (typeBits_eq _).symm

@[simp] theorem Result.withFixedHeader_x (r : Result) (q : Request) :
    (r.withFixedHeader q).x = q.xFlag :=
  (xBit_eq _).symm

/-- Stage 1 where its check passes: it writes the fixed fields and stops at offset 9 (R81, R86). -/
theorem hdrFixedStage_completes (q : Request) (e : Eval) (h : 12 ≤ q.length) :
    hdrFixedStage q e =
      .ok { next := some .seq, cur := 9#16, record := e.record.withFixedHeader q } := by
  rw [hdrFixedStage_of_le q e h, q.bigEndian_two, q.bigEndian_two, q.bigEndian_two, ccvalBits_eq,
    cscovBits_eq, reservedBits_eq, Request.typeCode, typeBits_eq, Request.xFlag, xBit_eq]
  rfl

/-- What a failed length check leaves (R142, R167), at a cursor that 16 bits hold. -/
theorem raiseTruncated_eq (status : Status) {cursor : Nat} (need : Nat) (q : Request)
    (hcursor : cursor < 2 ^ 16) :
    raiseTruncated status (BitVec.ofNat 16 cursor) need q =
      { next := none, cur := BitVec.ofNat 16 cursor
        record := errorRecord status cursor need (q.length - cursor) } := by
  rw [raiseTruncated, errorRecord, Request.length, BitVec.setWidth_ofNat_of_le (by decide),
    BitVec.toNat_ofNat, Nat.mod_eq_of_lt hcursor]

theorem hdrFixedStage_truncates (q : Request) (e : Eval) (h : q.length < 12) :
    hdrFixedStage q e =
      .ok { next := none, cur := 0#16, record := errorRecord .truncHdr 0 12 q.length } := by
  have hshort : q.len.toNat < (0#16).toNat + 12 := by simpa [Request.length] using h
  exact (requireBytes_of_lt q _ _ _ _ hshort).trans
    (congrArg Except.ok (raiseTruncated_eq .truncHdr 12 q (by decide)))

/-- Settles O10: the two outcomes of stage 1, and `ev` is all that a stage changes. -/
theorem hdrFixedUnpacksTheFixedFields : Obligations.HdrFixedUnpacksTheFixedFields := by
  refine ⟨fun _ => rfl, fun sel s => ⟨fun hlong => ?_, fun hshort => ?_⟩⟩
  · exact runStage_of_ok (hdrFixedStage_completes s.request s.ev hlong)
  · exact runStage_of_ok (hdrFixedStage_truncates s.request s.ev hshort)

end Sys2Proof.Machine
end

section
/-! The whole record of a decode that reaches stage 3 (O29 to O32): the first two stages leave
`headerRecord` at the extension cursor, and each arm adds its own fields. -/

namespace Sys2Proof.Machine

/-- What stage 1 leaves of a decode (R86). -/
def Request.evalAfterFixed (q : Request) : Eval :=
  { next := some .seq, cur := 9#16, record := Result.zero.withFixedHeader q }

/-- What stage 2 leaves of a decode (R103). -/
def Request.evalAfterSequence (q : Request) : Eval :=
  { next := some .ext, cur := BitVec.ofNat 16 q.extCursor, record := headerRecord q }

theorem Request.evalAfterSequence_cur_toNat (q : Request) :
    q.evalAfterSequence.cur.toNat = q.extCursor :=
  q.extCursor_toNat

theorem Request.evalAfterSequence_type (q : Request) :
    q.evalAfterSequence.record.type = q.typeCode :=
  Result.zero.withFixedHeader_type q

theorem Request.evalAfterSequence_x (q : Request) : q.evalAfterSequence.record.x = q.xFlag :=
  Result.zero.withFixedHeader_x q

theorem headerRecord_of_xFlag_one {q : Request} (h : q.xFlag = 1#1) :
    headerRecord q =
      (Result.zero.withFixedHeader q).withSequence (q.bigEndian 10 6) 0#24 := by
  rw [headerRecord, if_pos h, if_pos h, q.bigEndian_six]
  rfl

theorem headerRecord_of_xFlag_ne {q : Request} (h : q.xFlag ≠ 1#1) :
    headerRecord q =
      (Result.zero.withFixedHeader q).withSequence 0#48 (q.bigEndian 9 3) := by
  rw [headerRecord, if_neg h, if_neg h, q.bigEndian_three]
  rfl

/-- Stage 2 in a buffer that reaches the extension cursor: `x` chooses the sequence field written, and
with it the cursor (R100, R101, R103). -/
theorem sequenceStage_completes (q : Request) (h : q.extCursor ≤ q.length) :
    sequenceStage q q.evalAfterFixed = .ok q.evalAfterSequence := by
  have hcur : q.evalAfterFixed.cur.toNat = 9 := rfl
  by_cases hx : q.xFlag = 1#1
  · have hcursor := Request.extCursor_of_xFlag_one hx
    have hsel : q.evalAfterFixed.record.x = 1#1 := (Result.withFixedHeader_x _ q).trans hx
    have hlong : 16 ≤ q.len.toNat := hcursor.symm.trans_le h
    rw [sequenceStage, if_pos hsel, seq48Stage_of_le q q.evalAfterFixed hlong (by omega),
      joinU48_bigEndian, Request.evalAfterSequence, hcursor, headerRecord_of_xFlag_one hx]
    rfl
  · have hcursor := Request.extCursor_of_xFlag_ne hx
    have hsel : q.evalAfterFixed.record.x ≠ 1#1 := fun hone =>
      hx ((Result.withFixedHeader_x _ q).symm.trans hone)
    have hlong : 12 ≤ q.len.toNat := hcursor.symm.trans_le h
    rw [sequenceStage, if_neg hsel, seq24Stage_of_le q q.evalAfterFixed hlong (by omega),
      Request.evalAfterSequence, hcursor, headerRecord_of_xFlag_ne hx]
    rfl

theorem Request.le_extCursor (q : Request) : 12 ≤ q.extCursor := by
  unfold Request.extCursor
  split <;> decide

/-- A buffer that reaches the extension cursor is decoded to what stage 3 makes of `headerRecord`. -/
theorem decodeRequest_of_extensionStage {q : Request} {e : Eval} (h : q.extCursor ≤ q.length)
    (hrun : extensionStage q q.evalAfterSequence = .ok e) : decodeRequest q = .ok e.record := by
  have hfixed : hdrFixedStage q Eval.start = .ok q.evalAfterFixed :=
    hdrFixedStage_completes q Eval.start (q.le_extCursor.trans h)
  have hseq : unlessEnded q.evalAfterFixed (sequenceStage q q.evalAfterFixed) =
      .ok q.evalAfterSequence := (unlessEnded_of_next rfl).trans (sequenceStage_completes q h)
  have hext : unlessEnded q.evalAfterSequence (extensionStage q q.evalAfterSequence) = .ok e :=
    (unlessEnded_of_next rfl).trans hrun
  rw [decodeRequest, hfixed, ok_bind, hseq, ok_bind, hext, ok_bind]
  rfl

/-- Settles O29: the code is the byte after the spacer at the extension cursor. -/
theorem decodeOfRequestOrResponse : Obligations.DecodeOfRequestOrResponse := by
  intro q ht hlen
  have hcur := q.evalAfterSequence_cur_toNat
  have hcursor := q.extCursor_le
  have harm := extensionStage_of_code q q.evalAfterSequence (q.evalAfterSequence_type ▸ ht)
  rw [codeStage_of_le q _ (hcur ▸ hlen) (by omega), hcur] at harm
  rw [decodeRequest_of_extensionStage (by omega) harm, BitVec.ofNat_add]
  rfl

/-- Settles O30: with `x` = 1 the extension cursor is 16, and the number follows two reserved bytes. -/
theorem decodeOfExtendedAck : Obligations.DecodeOfExtendedAck := by
  intro q ht hx hlen
  have hcursor := Request.extCursor_of_xFlag_one hx
  have hcur := q.evalAfterSequence_cur_toNat.trans hcursor
  have harm := extensionStage_of_ack48 q q.evalAfterSequence (q.evalAfterSequence_type.trans ht)
    (q.evalAfterSequence_x.trans hx)
  rw [ack48Stage_of_le q _ (by rw [hcur]; exact hlen) (by omega), hcur, joinU48_bigEndian,
    q.bigEndian_six] at harm
  rw [decodeRequest_of_extensionStage (by omega) harm, Request.evalAfterSequence, hcursor]
  rfl

/-- Settles O31: with `x` = 0 the extension cursor is 12, and nothing is read from there. -/
theorem decodeOfShortAck : Obligations.DecodeOfShortAck := by
  intro q ht hx hlen
  have hcursor : q.extCursor = 12 := Request.extCursor_of_xFlag_ne (by simp [hx])
  have harm := extensionStage_of_ack24 q q.evalAfterSequence (q.evalAfterSequence_type.trans ht)
    (q.evalAfterSequence_x.trans hx)
  rw [decodeRequest_of_extensionStage (by omega) harm, Request.evalAfterSequence, hcursor]
  rfl

/-- The length of a remainder (R124): no borrow in the 16-bit difference. -/
theorem Request.len_sub_extCursor {q : Request} (h : q.extCursor ≤ q.length) :
    q.len - BitVec.ofNat 16 q.extCursor = BitVec.ofNat 16 (q.length - q.extCursor) := by
  have hcursor := q.extCursor_le
  rw [← BitVec.ofNat_sub_ofNat_of_le _ _ (by omega) h, Request.length, BitVec.ofNat_toNat,
    BitVec.setWidth_eq]

/-- Settles O32: the descriptor is the extension cursor and what the buffer holds from there. -/
theorem decodeOfUnparsedTypes : Obligations.DecodeOfUnparsedTypes := by
  intro q h0 h1 h3 hlen
  have htype := q.evalAfterSequence_type
  have harm := extensionStage_of_unparsed q q.evalAfterSequence (htype ▸ h0) (htype ▸ h1) (htype ▸ h3)
  rw [decodeRequest_of_extensionStage hlen harm, ← Request.len_sub_extCursor hlen]
  rfl

end Sys2Proof.Machine
end

section
/-! The two-part read of a 48-bit value (R42, R48, R102): its parts stand side by side in the value, so
neither loses a bit. -/

namespace Sys2Proof.Machine

theorem joinU48_high (high : BitVec 32) (low : BitVec 16) :
    (joinU48 high low).extractLsb' 16 32 = high := by
  rw [joinU48_eq_append]
  exact BitVec.extractLsb'_append_eq_left

theorem joinU48_low (high : BitVec 32) (low : BitVec 16) :
    (joinU48 high low).extractLsb' 0 16 = low := by
  rw [joinU48_eq_append]
  exact BitVec.extractLsb'_append_eq_right

/-- Settles O8: the OR is the concatenation of its two parts, and `readU48` reads them both where six
bytes can be read. -/
theorem twoPartReadIsOneSixByteRead : Obligations.TwoPartReadIsOneSixByteRead := by
  intro q o
  refine ⟨joinU48_bigEndian q o, joinU48_high _ _, joinU48_low _ _, fun hlen hwin => ?_⟩
  rw [readU48_of_le q o hlen hwin, joinU48_bigEndian]

end Sys2Proof.Machine
end

section
/-! The selection of a row (R68) as an equivalence: what O2 says of each byte, read for one row. -/

namespace Sys2Proof

/-- The row `i` is the one selected at its stage exactly by the bytes that fit its match and mask. -/
theorem decodeAt_eq_iff_rowMatches (i : Instr) {stage : Stage} (hstage : i.stage = some stage)
    (b : Byte) : decodeAt stage b = i.withSelector (Selector.ofByte b) ↔ i.rowMatches b = true := by
  refine ⟨fun hsel => ?_, decodeAt_of_rowMatches hstage⟩
  obtain ⟨hwf, -⟩ := decodeAt_wellFormed stage b
  exact (Instr.rowMatches_iff (by simp [hstage]) b).2 (hsel ▸ hwf)

theorem decodeAt_seq_eq_seq48_iff (b : Byte) :
    decodeAt .seq b = .seq48 (Selector.ofByte b) ↔ b &&& 0x01#8 = 0x01#8 :=
  (decodeAt_eq_iff_rowMatches (.seq48 (Selector.ofByte b)) rfl b).trans beq_iff_eq

theorem decodeAt_seq_eq_seq24_iff (b : Byte) :
    decodeAt .seq b = .seq24 (Selector.ofByte b) ↔ b &&& 0x01#8 = 0x00#8 :=
  (decodeAt_eq_iff_rowMatches (.seq24 (Selector.ofByte b)) rfl b).trans beq_iff_eq

end Sys2Proof
end

section
/-! Stage 2 in the spec's own terms (R100, R101): at its cursor, 9, each of the two operations writes its
field as named bytes, or its length check leaves the error record. -/

namespace Sys2Proof.Machine

/-- A length check that fails, at a cursor that 16 bits hold (R142, R167). -/
theorem requireBytes_truncates (status : Status) {cursor need : Nat} {q : Request}
    (k : Except Fault Eval) (hcursor : cursor < 2 ^ 16) (h : q.length < cursor + need) :
    requireBytes status (BitVec.ofNat 16 cursor) need q k =
      .ok { next := none, cur := BitVec.ofNat 16 cursor
            record := errorRecord status cursor need (q.length - cursor) } := by
  have hshort : q.len.toNat < (BitVec.ofNat 16 cursor).toNat + need := by
    rwa [BitVec.toNat_ofNat, Nat.mod_eq_of_lt hcursor]
  rw [requireBytes_of_lt q _ _ _ _ hshort, raiseTruncated_eq status need q hcursor]

section
variable {q : Request} {e : Eval} (hcur : e.cur = 9#16)
include hcur

/-- `SEQ48` where its check passes: byte 9 is the spacer, and the value ends at offset 16 (R100). -/
theorem seq48Stage_completes (h : 16 ≤ q.length) :
    seq48Stage q e = .ok {
      next := some .ext
      cur := 16#16
      record := e.record.withSequence
        (q.byteAt 10 ++ q.byteAt 11 ++ q.byteAt 12 ++ q.byteAt 13 ++ q.byteAt 14 ++ q.byteAt 15)
        0#24 } := by
  have hc : e.cur.toNat = 9 := by rw [hcur]; rfl
  rw [seq48Stage_of_le q e (by rw [hc]; exact h) (by omega), hc, hcur, joinU48_bigEndian,
    q.bigEndian_six]
  rfl

theorem seq48Stage_truncates (h : q.length < 16) :
    seq48Stage q e =
      .ok { next := none, cur := 9#16, record := errorRecord .truncSeq 9 7 (q.length - 9) } := by
  rw [seq48Stage, hcur]
  exact requireBytes_truncates .truncSeq _ (by decide) h

/-- `SEQ24` where its check passes: no spacer, and the raw bytes end at offset 12 (R101). -/
theorem seq24Stage_completes (h : 12 ≤ q.length) :
    seq24Stage q e = .ok {
      next := some .ext
      cur := 12#16
      record := e.record.withSequence 0#48 (q.byteAt 9 ++ q.byteAt 10 ++ q.byteAt 11) } := by
  have hc : e.cur.toNat = 9 := by rw [hcur]; rfl
  rw [seq24Stage_of_le q e (by rw [hc]; exact h) (by omega), hc, hcur, q.bigEndian_three]
  rfl

theorem seq24Stage_truncates (h : q.length < 12) :
    seq24Stage q e =
      .ok { next := none, cur := 9#16, record := errorRecord .truncSeq 9 3 (q.length - 9) } := by
  rw [seq24Stage, hcur]
  exact requireBytes_truncates .truncSeq _ (by decide) h

end

/-- Settles O11: the row's match and mask, the two outcomes of `SEQ48`, and `ev` is all that a stage
changes. -/
theorem seqFortyEightReadsBytesTenToFifteen : Obligations.SeqFortyEightReadsBytesTenToFifteen := by
  refine ⟨decodeAt_seq_eq_seq48_iff, fun sel s hcur => ⟨fun hlong => ?_, fun _ hshort => ?_⟩⟩
  · exact runStage_of_ok (seq48Stage_completes hcur hlong)
  · exact runStage_of_ok (seq48Stage_truncates hcur hshort)

/-- Settles O12: the same of `SEQ24`. -/
theorem seqTwentyFourPassesRawBytes : Obligations.SeqTwentyFourPassesRawBytes := by
  refine ⟨decodeAt_seq_eq_seq24_iff, fun sel s hcur => ⟨fun hlong => ?_, fun _ hshort => ?_⟩⟩
  · exact runStage_of_ok (seq24Stage_completes hcur hlong)
  · exact runStage_of_ok (seq24Stage_truncates hcur hshort)

end Sys2Proof.Machine
end

section
/-! The selection of an extension row (R68, R69): the bytes that select an operation are those that fit the
match and mask its row names. -/

namespace Sys2Proof

/-- A row that carries the sub-fields of a byte is selected by it exactly when it fits the row's match and
mask. -/
theorem decodeAt_eq_iff_of_row {i : Instr} {stage : Stage} {b m k : Byte}
    (hstage : i.stage = some stage) (hrow : i.row = some (m, k))
    (hsel : i.withSelector (Selector.ofByte b) = i) : decodeAt stage b = i ↔ b &&& k = m := by
  have hfit : i.rowMatches b = (b &&& k == m) := by rw [Instr.rowMatches, hrow]
  have hiff := decodeAt_eq_iff_rowMatches i hstage b
  rwa [hsel, hfit, beq_iff_eq] at hiff

/-- The rows of the Unparsed arms: mask 0x1E, and the arm's own type code in bits 4:1 of the match. -/
theorem row_of_mem_unparsedArms {sel : Selector} {n : Nat} {i : Instr}
    (h : (n, i) ∈ Machine.unparsedArms sel) :
    i.stage = some .ext ∧ i.row = some (BitVec.ofNat 8 n <<< 1, 0x1E#8) ∧
      i.withSelector sel = i := by
  have hall : ∀ p ∈ Machine.unparsedArms sel, p.2.stage = some .ext ∧
      p.2.row = some (BitVec.ofNat 8 p.1 <<< 1, 0x1E#8) ∧ p.2.withSelector sel = p.2 := by
    simp [Machine.unparsedArms, Instr.stage, Instr.row, Instr.withSelector]
  exact hall _ h

theorem decodeAt_ext_eq_unparsed_iff {b : Byte} {n : Nat} {i : Instr}
    (h : (n, i) ∈ Machine.unparsedArms (Selector.ofByte b)) :
    decodeAt .ext b = i ↔ b &&& 0x1E#8 = BitVec.ofNat 8 n <<< 1 := by
  obtain ⟨hstage, hrow, hsel⟩ := row_of_mem_unparsedArms h
  exact decodeAt_eq_iff_of_row hstage hrow hsel

end Sys2Proof
end

section
/-! Stage 3 in the spec's own terms (R121 to R124): each arm ends the decode with its variant's fields, or
its length check leaves the error record. -/

namespace Sys2Proof.Machine

section
variable {q : Request} {e : Eval}

/-- The code of a Request or a Response where the check passes (R121): the byte at the cursor is the
spacer. -/
theorem codeStage_completes {c : Nat} (hcur : e.cur = BitVec.ofNat 16 c) (hwin : c + 2 ≤ 24)
    (h : c + 2 ≤ q.length) :
    codeStage q e = .ok (endDecode (BitVec.ofNat 16 (c + 2))
      (e.record.withExtension .reqresp (q.byteAt (c + 1)) 0#48 0#1 0#16 0#16)) := by
  have hc : e.cur.toNat = c := by rw [hcur, BitVec.toNat_ofNat, Nat.mod_eq_of_lt (by omega)]
  rw [codeStage_of_le q e (by rw [hc]; exact h) (by omega), hc, hcur, BitVec.ofNat_add]
  rfl

/-- One error, whether the spacer or the code is missing (R121). -/
theorem codeStage_truncates {c : Nat} (hcur : e.cur = BitVec.ofNat 16 c) (hc : c < 2 ^ 16)
    (h : q.length < c + 2) :
    codeStage q e = .ok { next := none, cur := BitVec.ofNat 16 c
                          record := errorRecord .truncExt c 2 (q.length - c) } := by
  rw [codeStage, hcur]
  exact requireBytes_truncates .truncExt _ hc h

/-- The 48-bit Ack number where the check passes (R122): bytes 16 and 17 are the reserved part. -/
theorem ack48Stage_completes (hcur : e.cur = 16#16) (h : 24 ≤ q.length) :
    ack48Stage q e = .ok (endDecode 24#16 (e.record.withExtension .ack 0#8
      (q.byteAt 18 ++ q.byteAt 19 ++ q.byteAt 20 ++ q.byteAt 21 ++ q.byteAt 22 ++ q.byteAt 23)
      0#1 0#16 0#16)) := by
  have hc : e.cur.toNat = 16 := by rw [hcur]; rfl
  rw [ack48Stage_of_le q e (by rw [hc]; exact h) (by omega), hc, hcur, joinU48_bigEndian,
    q.bigEndian_six]
  rfl

theorem ack48Stage_truncates (hcur : e.cur = 16#16) (h : q.length < 24) :
    ack48Stage q e =
      .ok { next := none, cur := 16#16, record := errorRecord .truncExt 16 8 (q.length - 16) } := by
  rw [ack48Stage, hcur]
  exact requireBytes_truncates .truncExt _ (by decide) h

end

/-- `EXT_REQUEST` and `EXT_RESPONSE` have one meaning (R121). -/
theorem exec_eq_codeStage {sel : Selector} {i : Instr}
    (h : i = .extRequest sel ∨ i = .extResponse sel) (s : State) :
    exec i s = runStage codeStage s := by
  obtain rfl | rfl := h
  · exact exec_extRequest sel s
  · exact exec_extResponse sel s

/-- Settles O13: the two rows' matches and mask, the two outcomes of their one stage at a cursor whose two
bytes the window holds, and `ev` is all that a stage changes. -/
theorem requestAndResponseReadTheCode : Obligations.RequestAndResponseReadTheCode := by
  refine ⟨fun b => ⟨decodeAt_eq_iff_of_row rfl rfl rfl, decodeAt_eq_iff_of_row rfl rfl rfl⟩, ?_⟩
  intro sel s c hc hcur i hi
  rw [exec_eq_codeStage hi]
  refine ⟨fun hlong => ?_, fun _ hshort => ?_⟩
  · exact runStage_of_ok (codeStage_completes hcur (by omega) hlong)
  · exact runStage_of_ok (codeStage_truncates hcur (by omega) hshort)

/-- Settles O14: the row's match and mask, and the two outcomes of `EXT_ACK48` at cursor 16. -/
theorem ackFortyEightReadsBytesEighteenToTwentyThree :
    Obligations.AckFortyEightReadsBytesEighteenToTwentyThree := by
  refine ⟨fun b => decodeAt_eq_iff_of_row rfl rfl rfl,
    fun sel s hcur => ⟨fun hlong => ?_, fun _ hshort => ?_⟩⟩
  · exact runStage_of_ok (ack48Stage_completes hcur hlong)
  · exact runStage_of_ok (ack48Stage_truncates hcur hshort)

/-- Settles O15: the row's match and mask; the stage has no length check and one outcome. -/
theorem ackTwentyFourSetsTheLimitationMarker :
    Obligations.AckTwentyFourSetsTheLimitationMarker := by
  refine ⟨fun b => decodeAt_eq_iff_of_row rfl rfl rfl, fun sel s => ?_⟩
  have hstage : ack24Stage s.request s.ev = .ok (endDecode s.ev.cur
      (s.ev.record.withExtension .ack 0#8 0#48 ackLimitation 0#16 0#16)) := rfl
  exact (exec_extAck24 sel s).trans (runStage_of_ok hstage)

/-- Settles O16: each arm's match is its type code, and all thirteen run the one stage that has no length
check. -/
theorem unparsedArmsNameTheRemainder : Obligations.UnparsedArmsNameTheRemainder := by
  refine ⟨fun b n i hi => decodeAt_ext_eq_unparsed_iff hi, fun sel s n i hi => ?_⟩
  have hstage : unparsedStage s.request s.ev = .ok (endDecode s.request.len
      (s.ev.record.withExtension .unparsed 0#8 0#48 ackSupported s.ev.cur
        (s.request.len - s.ev.cur))) := rfl
  exact (exec_of_mem_unparsedArms hi s).trans (runStage_of_ok hstage)

end Sys2Proof.Machine
end

section
/-! One transaction (O18, O34, O38, O19, O20): which port step the signals of a cycle choose, what each
writes, and what the record that `ACCEPT` stores depends on. -/

namespace Sys2Proof.Machine

theorem step_of_nextInstr {s : State} {i : Instr} (h : s.nextInstr = i) : step s = exec i s := by
  rw [step, h]

theorem State.accepting_eq_false {s : State} (h : ¬ (s.st = .idle ∧ s.cycle.reqValid = true)) :
    s.accepting = false :=
  Bool.eq_false_iff.2 fun hacc => h (State.accepting_iff.1 hacc).2

/-- With neither a request to accept nor a response that is taken, an edge holds (R146). -/
theorem nextInstr_hold {s : State} (hrst : s.cycle.rst = false)
    (haccept : ¬ (s.st = .idle ∧ s.cycle.reqValid = true))
    (hcomplete : ¬ (s.st = .full ∧ s.cycle.rspReady = true)) : s.nextInstr = .hold := by
  rw [nextInstr_of_no_stage (by simp [State.pendingStage, State.accepting_eq_false haccept])]
  have hnot : ¬ s.signals.rst = true := Bool.eq_false_iff.1 hrst
  exact (if_neg hnot).trans ((if_neg haccept).trans (if_neg hcomplete))

theorem State.event_of_complete {s : State} (h : s.nextInstr = .complete) :
    s.event = some (.taken s.R) := by
  rw [State.event, h]

/-- Settles O18: `Decode` answers every request, and the edge of an accepting cycle whose stages have
run accepts. -/
theorem acceptStoresTheDecodedRequest : Obligations.AcceptStoresTheDecodedRequest := by
  intro s
  obtain ⟨r, hdecode, -⟩ := decodeRequest_answers s.request
  refine ⟨⟨r, hdecode, execAccept_eq_next.2 ⟨r, hdecode, rfl⟩⟩, fun hrst hidle hvalid hended => ?_⟩
  have hacc : s.accepting = true := State.accepting_iff.2 ⟨hrst, hidle, hvalid⟩
  exact ⟨s.reqReady_iff.2 ⟨hidle, hrst⟩, step_of_nextInstr (nextInstr_accept hacc hended)⟩

/-- Settles O19: the edge of a cycle with a response that the host takes completes. -/
theorem completeGivesUpTheResponse : Obligations.CompleteGivesUpTheResponse := by
  intro s
  refine ⟨⟨_, exec_complete s, rfl, rfl⟩, fun hrst hfull hready => ?_⟩
  have hcomplete : s.nextInstr = .complete := nextInstr_complete hrst hfull hready
  exact ⟨step_of_nextInstr hcomplete, State.event_of_complete hcomplete,
    State.response_of_full hfull⟩

/-- Settles O20: `HOLD` ends the cycle and does nothing else. -/
theorem holdKeepsTheRegisters : Obligations.HoldKeepsTheRegisters := fun s =>
  ⟨exec_hold s, fun hrst haccept hcomplete =>
    step_of_nextInstr (nextInstr_hold hrst haccept hcomplete)⟩

/-- Settles O34: `Decode` answers, and an answer is coherent. -/
theorem decodeAnswersWithAbsentFieldsZero : Obligations.DecodeAnswersWithAbsentFieldsZero := by
  intro q
  obtain ⟨r, hdecode, hanswers⟩ := decodeRequest_answers q
  exact ⟨r, hdecode, hanswers.coherent⟩

/-- Every offset of R46's table lies below `L` where it is read, and inside the window of R24. -/
theorem Request.agreeOnReads_of_presented {q q' : Request} (hlen : q.len = q'.len)
    (h : ∀ i, i < q.length → i < 24 → q.byteAt i = q'.byteAt i) : q.AgreeOnReads q' where
  len   := hlen
  fixed := fun i hi hlong => h i (by omega) (by omega)
  seq24 := fun i _ hi hlong _ => h i (by omega) (by omega)
  seq48 := fun i _ hi hlong _ => h i (by omega) (by omega)
  code  := fun _ hlong => h _ (by omega) (by have := q.extCursor_le; omega)
  ack48 := fun i _ hi hlong _ _ => h i (by omega) hi

/-- Settles O38: the offsets that `Decode` reads are among those presented, and `R` is what it
answers. -/
theorem acceptedRecordDependsOnThePresentedBytesOnly :
    Obligations.AcceptedRecordDependsOnThePresentedBytesOnly := by
  intro s s' t t' hlen hbytes h h'
  obtain ⟨r, hr, rfl⟩ := execAccept_eq_next.1 h
  obtain ⟨r', hr', rfl⟩ := execAccept_eq_next.1 h'
  have hsame := decodeRequest_congr (Request.agreeOnReads_of_presented hlen hbytes)
  exact Except.ok.inj (hr.symm.trans (hsame.trans hr'))

end Sys2Proof.Machine
end

section
/-! A response on the port (O45): from a `FULL` state a step keeps it there or ends it with an event, and
so does a run. -/

namespace Sys2Proof.Machine

/-- With a response on the port a step either keeps it there and shows no event, or its event is the
taking of that response or a reset. -/
theorem step_cases_of_full {s t : State} (hfull : s.st = .full) (h : step s = .next t) :
    (s.event = none ∧ t.st = .full ∧ t.R = s.R) ∨
    s.event = some (.taken s.R) ∨ s.event = some .reset := by
  obtain ⟨hheader, e, rfl⟩ | ⟨hi, -⟩ | ⟨hi, -⟩ | ⟨hi, rfl⟩ | ⟨hi, -⟩ := step_cases h
  · exact .inl ⟨event_of_header s hheader, hfull, rfl⟩
  · exact nomatch hfull.symm.trans (State.idle_of_accept hi)
  · exact .inr (.inl (State.event_of_complete hi))
  · exact .inl ⟨by rw [State.event, hi], hfull, rfl⟩
  · exact .inr (.inr (by rw [State.event, hi]))

theorem trace_succ_of_event (k : Nat) {s t : State} {e : Event} (h : step s = .next t)
    (hev : s.event = some e) : (trace (k + 1) s).1 = e :: (trace k t).1 := by
  rw [trace_succ_of_next k h, hev]
  rfl

/-- With a response on the port a run shows no event and ends with that response, or its first event is
the taking of that response or a reset. -/
theorem trace_cases_of_full (k : Nat) {s : State} (hfull : s.st = .full) :
    ((trace k s).1 = [] ∧ (trace k s).2.response = some s.R) ∨
    ∃ e rest, (trace k s).1 = e :: rest ∧ (e = .taken s.R ∨ e = .reset) := by
  induction k generalizing s with
  | zero => exact .inl ⟨rfl, State.response_of_full hfull⟩
  | succ k ih =>
    by_cases hstep : ∃ t, step s = .next t
    · obtain ⟨t, ht⟩ := hstep
      obtain ⟨hev, hfull', hR⟩ | hev | hev := step_cases_of_full hfull ht
      · rw [trace_succ_of_event_none k ht hev, ← hR]
        exact ih hfull'
      · exact .inr ⟨_, _, trace_succ_of_event k ht hev, .inl rfl⟩
      · exact .inr ⟨_, _, trace_succ_of_event k ht hev, .inr rfl⟩
    · rw [trace_of_stopped (k + 1) (not_exists.1 hstep)]
      exact .inl ⟨rfl, State.response_of_full hfull⟩

/-- Settles O45, by the two ways a run from a `FULL` state can go. -/
theorem responseStaysUntilTakenOrReset : Obligations.ResponseStaysUntilTakenOrReset := by
  intro k s t es hfull htrace
  have hcases := trace_cases_of_full k hfull
  simp only [htrace] at hcases
  obtain ⟨rfl, hresponse⟩ | ⟨e, rest, rfl, hfirst⟩ := hcases
  · exact ⟨fun _ => hresponse, nofun⟩
  · refine ⟨nofun, fun e' rest' heq => ?_⟩
    obtain ⟨rfl, -⟩ := List.cons.inj heq
    exact hfirst

end Sys2Proof.Machine
end

section
/-! The error taxonomy (O28, O35): the length checks that can fail, each with the record it leaves, and
success where none does (R160 to R163, R167). -/

namespace Sys2Proof.Machine

/-- The taxonomy (R160 to R163): the request fails the length check of a stage that starts at `cursor`
and needs `need` bytes from there. -/
inductive Request.Truncated (q : Request) : Status → (cursor need : Nat) → Prop where
  | hdr (hshort : q.length < 12) : q.Truncated .truncHdr 0 12
  | seq (hfixed : 12 ≤ q.length) (hx : q.xFlag = 1#1) (hshort : q.length < 16) :
      q.Truncated .truncSeq 9 7
  | code (hreach : q.extCursor ≤ q.length) (htype : q.typeCode = 0#4 ∨ q.typeCode = 1#4)
      (hshort : q.length < q.extCursor + 2) : q.Truncated .truncExt q.extCursor 2
  | ack (hreach : 16 ≤ q.length) (hx : q.xFlag = 1#1) (htype : q.typeCode = 3#4)
      (hshort : q.length < 24) : q.Truncated .truncExt 16 8

/-- An error of stage 1 is the whole answer (R142, R165). -/
theorem decodeRequest_of_hdrFixedStage_ended {q : Request} {e : Eval}
    (hrun : hdrFixedStage q Eval.start = .ok e) (hend : e.next = none) :
    decodeRequest q = .ok e.record := by
  rw [decodeRequest, hrun, ok_bind, unlessEnded_of_ended hend, ok_bind, unlessEnded_of_ended hend,
    ok_bind]
  rfl

/-- An error of stage 2 is the whole answer (R142, R165). -/
theorem decodeRequest_of_sequenceStage_ended {q : Request} {e : Eval} (hlen : 12 ≤ q.length)
    (hrun : sequenceStage q q.evalAfterFixed = .ok e) (hend : e.next = none) :
    decodeRequest q = .ok e.record := by
  have hfixed : hdrFixedStage q Eval.start = .ok q.evalAfterFixed :=
    hdrFixedStage_completes q Eval.start hlen
  have hseq : unlessEnded q.evalAfterFixed (sequenceStage q q.evalAfterFixed) = .ok e :=
    (unlessEnded_of_next rfl).trans hrun
  rw [decodeRequest, hfixed, ok_bind, hseq, ok_bind, unlessEnded_of_ended hend, ok_bind]
  rfl

section
variable {q : Request} {status : Status} {cursor need : Nat}

/-- Each failed check leaves its error record: `have` is what the buffer holds from the cursor. -/
theorem decodeRequest_of_truncated (h : q.Truncated status cursor need) :
    decodeRequest q = .ok (errorRecord status cursor need (q.length - cursor)) := by
  cases h with
  | hdr hshort =>
    exact decodeRequest_of_hdrFixedStage_ended (hdrFixedStage_truncates q Eval.start hshort) rfl
  | seq hfixed hx hshort =>
    have hsel : sequenceStage q q.evalAfterFixed = seq48Stage q q.evalAfterFixed :=
      if_pos ((Result.withFixedHeader_x _ q).trans hx)
    exact decodeRequest_of_sequenceStage_ended hfixed
      (hsel.trans (seq48Stage_truncates rfl hshort)) rfl
  | code hreach htype hshort =>
    have harm := extensionStage_of_code q q.evalAfterSequence (q.evalAfterSequence_type ▸ htype)
    have hcursor := q.extCursor_le
    exact decodeRequest_of_extensionStage hreach
      (harm.trans (codeStage_truncates rfl (by omega) hshort))
  | ack hreach hx htype hshort =>
    have hcursor := Request.extCursor_of_xFlag_one hx
    have hcur : q.evalAfterSequence.cur = 16#16 := congrArg (BitVec.ofNat 16) hcursor
    have harm := extensionStage_of_ack48 q q.evalAfterSequence (q.evalAfterSequence_type.trans htype)
      (q.evalAfterSequence_x.trans hx)
    exact decodeRequest_of_extensionStage (hcursor.trans_le hreach)
      (harm.trans (ack48Stage_truncates hcur hshort))

/-- A failing stage starts within the buffer and needs more than is left of it; both numbers fit the
`err_*` fields. -/
theorem Request.Truncated.bounds (h : q.Truncated status cursor need) :
    cursor ≤ q.length ∧ q.length < cursor + need ∧ cursor ≤ 16 ∧ need ≤ 12 := by
  cases h with
  | hdr hshort => omega
  | seq hfixed hx hshort => omega
  | code hreach htype hshort => exact ⟨hreach, hshort, q.extCursor_le, by omega⟩
  | ack hreach hx htype hshort => omega

end

/-- A buffer that no check finds too short is decoded without an error: each arm of the dispatch (R120)
has what it reads. -/
theorem decodeRequest_succeeds {q : Request} (hreach : q.extCursor ≤ q.length)
    (hcode : q.typeCode = 0#4 ∨ q.typeCode = 1#4 → q.extCursor + 2 ≤ q.length)
    (hack : q.xFlag = 1#1 → q.typeCode = 3#4 → 24 ≤ q.length) :
    ∃ r, decodeRequest q = .ok r ∧ r.status = .ok := by
  by_cases ht : q.typeCode = 0#4 ∨ q.typeCode = 1#4
  · exact ⟨_, decodeOfRequestOrResponse q ht (hcode ht), rfl⟩
  by_cases h3 : q.typeCode = 3#4
  · obtain hx | hx := BitVec.eq_zero_or_eq_one q.xFlag
    · exact ⟨_, decodeOfShortAck q h3 hx (q.le_extCursor.trans hreach), rfl⟩
    · exact ⟨_, decodeOfExtendedAck q h3 hx (hack hx h3), rfl⟩
  · obtain ⟨h0, h1⟩ := not_or.1 ht
    exact ⟨_, decodeOfUnparsedTypes q h0 h1 h3 hreach, rfl⟩

/-- Settles O28: each failed check has its record, and where none fails every arm has its bytes. -/
theorem decodeErrorsAreTheTaxonomy : Obligations.DecodeErrorsAreTheTaxonomy := fun _ =>
  ⟨fun hshort => decodeRequest_of_truncated (.hdr hshort),
    fun hfixed hx hshort => decodeRequest_of_truncated (.seq hfixed hx hshort),
    fun hreach htype hshort => decodeRequest_of_truncated (.code hreach htype hshort),
    fun hreach hx htype hshort => decodeRequest_of_truncated (.ack hreach hx htype hshort),
    decodeRequest_succeeds⟩

/-- A buffer that ends before the extension cursor fails the check of stage 1 or, with `x` = 1, of
stage 2. -/
theorem Request.truncated_of_lt_extCursor {q : Request} (h : q.length < q.extCursor) :
    ∃ status cursor need, q.Truncated status cursor need := by
  by_cases hfixed : 12 ≤ q.length
  · by_cases hx : q.xFlag = 1#1
    · have hcursor := Request.extCursor_of_xFlag_one hx
      exact ⟨_, _, _, .seq hfixed hx (by omega)⟩
    · have hcursor := Request.extCursor_of_xFlag_ne hx
      omega
  · exact ⟨_, _, _, .hdr (by omega)⟩

/-- The taxonomy is complete: a decode that ends in an error failed one of its checks (R160). -/
theorem truncated_of_decodeRequest {q : Request} {r : Result} (h : decodeRequest q = .ok r)
    (herr : r.status ≠ .ok) :
    ∃ status cursor need, q.Truncated status cursor need ∧
      r = errorRecord status cursor need (q.length - cursor) := by
  have hfails : ∃ status cursor need, q.Truncated status cursor need := by
    by_contra hnone
    have hreach : q.extCursor ≤ q.length :=
      le_of_not_gt fun hlt => hnone (Request.truncated_of_lt_extCursor hlt)
    have hcode (ht : q.typeCode = 0#4 ∨ q.typeCode = 1#4) : q.extCursor + 2 ≤ q.length :=
      le_of_not_gt fun hlt => hnone ⟨_, _, _, .code hreach ht hlt⟩
    have hack (hx : q.xFlag = 1#1) (ht : q.typeCode = 3#4) : 24 ≤ q.length :=
      le_of_not_gt fun hlt => hnone
        ⟨_, _, _, .ack ((Request.extCursor_of_xFlag_one hx).symm.trans_le hreach) hx ht hlt⟩
    obtain ⟨r', hr', hok⟩ := decodeRequest_succeeds hreach hcode hack
    obtain rfl := Except.ok.inj (hr'.symm.trans h)
    exact herr hok
  obtain ⟨status, cursor, need, htrunc⟩ := hfails
  exact ⟨status, cursor, need, htrunc,
    Except.ok.inj (h.symm.trans (decodeRequest_of_truncated htrunc))⟩

/-- Settles O35: the shortfall is that of the check that failed, and its constructor names the stage. -/
theorem diagnosticsTellStageAndShortfall : Obligations.DiagnosticsTellStageAndShortfall := by
  intro q r h herr
  obtain ⟨status, cursor, need, htrunc, rfl⟩ := truncated_of_decodeRequest h herr
  obtain ⟨hreach, hshort, hcursor, hneed⟩ := htrunc.bounds
  have hbyte {n : Nat} (hn : n < 256) : (BitVec.ofNat 8 n).toNat = n :=
    (BitVec.toNat_ofNat n 8).trans (Nat.mod_eq_of_lt hn)
  have hc := hbyte (n := cursor) (by omega)
  have hn := hbyte (n := need) (by omega)
  have hh := hbyte (n := q.length - cursor) (by omega)
  simp only [errorRecord, hc, hn, hh]
  refine ⟨by omega, by omega, ?_⟩
  cases htrunc with
  | hdr => exact ⟨fun _ => ⟨rfl, rfl⟩, nofun, nofun⟩
  | seq => exact ⟨nofun, fun _ => ⟨rfl, rfl⟩, nofun⟩
  | code _ htype =>
    have hnot : q.typeCode ≠ 3#4 := by obtain ht | ht := htype <;> simp [ht]
    exact ⟨nofun, nofun, fun _ => ⟨htype.imp_right .inl, rfl, (if_neg hnot).symm⟩⟩
  | ack _ hx htype =>
    have hext := Request.extCursor_of_xFlag_one hx
    exact ⟨nofun, nofun, fun _ => ⟨.inr (.inr htype), by rw [hext], (if_pos htype).symm⟩⟩

end Sys2Proof.Machine
end

section
/-! Reset (O21, O47): a cycle with `rst` = 1 accepts nothing, so no stage of `Decode` runs in it, and its
edge is the reset step, first in the priority of R181. -/

namespace Sys2Proof.Machine

/-- The three conditions of `ACCEPT` (R144) include `rst` = 0. -/
theorem State.accepting_of_rst {s : State} (hrst : s.cycle.rst = true) : s.accepting = false := by
  simp [State.accepting, hrst]

/-- With `rst` = 1 the edge resets, whatever the other signals are (R181). -/
theorem nextInstr_reset {s : State} (hrst : s.cycle.rst = true) : s.nextInstr = .reset := by
  rw [nextInstr_of_no_stage (by simp [State.pendingStage, State.accepting_of_rst hrst])]
  exact if_pos hrst

theorem State.event_of_reset {s : State} (h : s.nextInstr = .reset) : s.event = some .reset := by
  rw [State.event, h]

/-- `req_ready` is 0 while `rst` is 1 (R30, R180). -/
theorem State.reqReady_of_rst {s : State} (hrst : s.cycle.rst = true) : s.reqReady = false := by
  simp [State.reqReady, hrst]

/-- Settles O21: the reset step writes `IDLE` and zeros, and an edge with `rst` = 1 selects it. -/
theorem resetClearsTheRegisters : Obligations.ResetClearsTheRegisters := fun s =>
  ⟨exec_reset s, State.reset_st, State.reset_R, Result.zero_bits,
    fun hrst => step_of_nextInstr (nextInstr_reset hrst)⟩

/-- Settles O47: the step of a reset edge is the reset step, which leaves `st` at `IDLE`. -/
theorem resetEdgeDropsResponseAndRequest : Obligations.ResetEdgeDropsResponseAndRequest := by
  intro s hrst
  have hreset : s.nextInstr = .reset := nextInstr_reset hrst
  have hstep : step s = .next (s.afterEdge .idle Result.zero) :=
    (step_of_nextInstr hreset).trans (exec_reset s)
  exact ⟨State.reqReady_of_rst hrst, State.event_of_reset hreset,
    _, hstep, rfl, rfl, State.response_of_idle rfl⟩

end Sys2Proof.Machine
end

section
/-! A table word put in place (O4, log entries 6 and 7): the placed request reaches the extension cursor,
so its first two stages leave an honest evaluation before stage 3, and the byte 8 that stage 3 looks at
is the word. -/

namespace Sys2Proof.Machine

/-- A stage that ran on an honest evaluation left an honest one. -/
theorem Eval.Honest.of_stageMeaning {q : Request} {e e' : Eval} {stage : Stage} (h : e.Honest q)
    (hn : e.next = some stage) (hrun : stageMeaning stage q e = .ok e') : e'.Honest q := by
  obtain ⟨e₁, hrun₁, he₁, -⟩ := stageMeaning_honest hn h
  obtain rfl := Except.ok.inj (hrun.symm.trans hrun₁)
  exact he₁

section
variable {q : Request} (h : q.extCursor ≤ q.length)
include h

theorem hdrFixedStage_start_completes : hdrFixedStage q Eval.start = .ok q.evalAfterFixed :=
  hdrFixedStage_completes q Eval.start (q.le_extCursor.trans h)

theorem Request.evalAfterSequence_honest : q.evalAfterSequence.Honest q :=
  have hfixed : q.evalAfterFixed.Honest q :=
    (Eval.start_honest q).of_stageMeaning (stage := .hdr) rfl (hdrFixedStage_start_completes h)
  hfixed.of_stageMeaning (stage := .seq) rfl (sequenceStage_completes q h)

theorem evalToExtension_completes : evalToExtension q = q.evalAfterSequence := by
  have hseq : unlessEnded q.evalAfterFixed (sequenceStage q q.evalAfterFixed) =
      .ok q.evalAfterSequence := (unlessEnded_of_next rfl).trans (sequenceStage_completes q h)
  simp only [evalToExtension, hdrFixedStage_start_completes h, hseq]

end

section
variable (q : Request) (b : Byte)

/-- A whole window reaches the extension cursor whatever byte 8 says. -/
theorem Request.withSelector_reaches_extension :
    (q.withSelector b).extCursor ≤ (q.withSelector b).length :=
  (q.withSelector b).extCursor_le.trans (by decide : 16 ≤ 24)

theorem Request.withSelector_byteAt_eight (hwf : q.buf.wf = true) :
    (q.withSelector b).byteAt 8 = b :=
  (q.buf.read_write 8 8 b hwf).trans (if_pos rfl)

end

section
variable (s : State) (b : Byte)

theorem State.placeSelector_request : (s.placeSelector b).request = s.request.withSelector b := rfl

theorem State.placeSelector_accepting : (s.placeSelector b).accepting = true := rfl

/-- The placed state stands before stage 3 of its request. -/
theorem State.placeSelector_ev :
    (s.placeSelector b).ev = (s.request.withSelector b).evalAfterSequence :=
  evalToExtension_completes (s.request.withSelector_reaches_extension b)

end

/-- The buffer on the port is canonical: it is a listed one, or the empty one of a quiet host. -/
theorem State.Inv.request_wf {s : State} (h : s.Inv) : s.request.buf.wf = true := by
  cases hin : s.inputs with
  | nil => rw [State.request, State.cycle, hin]; exact Cycle.quiet_wf
  | cons c rest =>
    rw [State.request, State.cycle, hin]
    exact h.buffers c (hin ▸ List.mem_cons_self)

theorem nextInstr_placeSelector {s : State} (b : Byte) (hwf : s.request.buf.wf = true) :
    (s.placeSelector b).nextInstr = decodeAt .ext b := by
  have hnext : (s.placeSelector b).ev.next = some .ext := by rw [s.placeSelector_ev b]; rfl
  rw [nextInstr_of_stage (s.placeSelector_accepting b) hnext, s.placeSelector_request b,
    s.request.withSelector_byteAt_eight b hwf]

/-- The invariant survives the placing: only the request's byte 8 is written, `R` is kept, and `st` is
`IDLE`. -/
theorem State.Inv.placeSelector {s : State} (h : s.Inv) (b : Byte) : (s.placeSelector b).Inv where
  buffers  := fun c hc => by
    obtain rfl | htail := List.mem_cons.1 hc
    · exact s.request.buf.write_wf 8 b h.request_wf
    · exact h.buffers c (List.mem_of_mem_tail htail)
  coherent := h.coherent
  response := fun hfull => nomatch hfull
  honest   := by
    rw [s.placeSelector_ev b, s.placeSelector_request b]
    exact Request.evalAfterSequence_honest (s.request.withSelector_reaches_extension b)
  fresh    := fun hnot => Bool.noConfusion ((s.placeSelector_accepting b).symm.trans hnot)

/-- A word of eight bits is read as the extension operation of that byte 8 (log entry 6). -/
theorem decodeTableWord_of_lt {w : Nat} (h : w < 256) :
    decodeTableWord 8 w = some (decodeAt .ext (BitVec.ofNat 8 w)) := by
  rw [decodeTableWord, decodeTable, if_pos ⟨rfl, h⟩]
  rfl

/-- Settles O4: both the table and the placed state read the word as byte 8 of stage 3. -/
theorem placedTableWordRunsNext : Obligations.PlacedTableWordRunsNext := by
  intro s w hinv hw
  have hnext : (s.withFetchWord 8 w).nextInstr = decodeAt .ext (BitVec.ofNat 8 w) :=
    nextInstr_placeSelector _ hinv.request_wf
  refine ⟨?_, step_of_nextInstr rfl, hinv.placeSelector _⟩
  rw [hnext, decodeTableWord_of_lt hw]

end Sys2Proof.Machine
end
